-- ==== Sys2Proof/Word.lean ====
section
/-! DEFINITION. The word types of the unit, one name per width the spec uses (00_scope.md rules R5, R6, R16). -/

namespace Sys2Proof

/-- A plane byte, and the byte of the little-endian byte view of a memory (R16, R53). -/
abbrev Byte := BitVec 8

/-- A 16-bit field of a command, a 16-bit line of a tile, a 16-bit uniform register (R6, R16, R36). -/
abbrev Field := BitVec 16

/-- A 32-bit word of graphics memory, or a 32-bit palette entry (R5 `WORD_W`, R6 `COLOR_W`). -/
abbrev Word := BitVec 32

/-- A 128-bit record of graphics memory (R16, R34). -/
abbrev Record := BitVec 128

/-- A 72-bit command word (R6 `CMD_W`, R81). -/
abbrev CommandWord := BitVec 72

/-- A 128-bit response word (R6 `RSP_W`, R81). -/
abbrev ResponseWord := BitVec 128

/-- A 4-bit colour index (R5 `INDEX_W`). -/
abbrev ColorIndex := BitVec 4

end Sys2Proof
end

