-- ==== Sys2Proof/Syntax.lean ====
section
/-! DEFINITION. The eight commands (00_scope.md rule R10, 30_encoding.md rules R84 and R92), one constructor per row
of spec/opcode_table.json. The arguments are the fields of the row, the highest bits first. -/

namespace Sys2Proof

/-- A command. Ignored fields (R95) are kept, so that a command and its word determine each other. The must-be-zero
field of a write command (R94) is kept too: the command's own rule tests it first (R210, R211, R212). -/
inductive Instr where
  /-- DECODE, format X, `op` 0x00 (R180). -/
  | decode (paf tileId v u : Field)
  /-- PREVIEW, format X, `op` 0x01 (R190); `paf` and `tileId` are ignored (R95). -/
  | preview (paf tileId v u : Field)
  /-- DEBUG, format X, `op` 0x02 (R200); `paf` and `tileId` are ignored (R95). -/
  | debug (paf tileId v u : Field)
  /-- DECODEXY, format C, `op` 0x03 (R181). -/
  | decodexy (paf tileId y x : Field)
  /-- PLACE, format G, `op` 0x04 + `corner` (R90, R120). -/
  | place (corner : BitVec 2) (paf tileId gridY gridX : Field)
  /-- WR_GFX, format W, `op` 0x10 (R210). -/
  | wrGfx (mbz : BitVec 13) (waddr : BitVec 19) (data : Word)
  /-- WR_PAL, format W, `op` 0x11 (R211). -/
  | wrPal (mbz : BitVec 20) (paddr : BitVec 12) (color : Word)
  /-- WR_RES, format W, `op` 0x12 (R212). -/
  | wrRes (mbz : BitVec 32) (resY resX : Field)
deriving DecidableEq, Repr

end Sys2Proof
end

