-- ==== Sys2Proof/WellFormed.lean ====
section
/-! DEFINITION. Which terms of `Instr` are commands: the must-be-zero field of a write command is zero (30_encoding.md
rule R94). Every other field admits every value of its width (R95, R96); whether an operand lies in its domain is the
command's own test and ends in a FAULT response (60_exceptions.md rule R221). -/

namespace Sys2Proof

/-- The command's must-be-zero bits are all 0 (R94); formats X, C and G have none. -/
def Instr.wellFormed : Instr → Bool
  | .decode _ _ _ _ => true
  | .preview _ _ _ _ => true
  | .debug _ _ _ _ => true
  | .decodexy _ _ _ _ => true
  | .place _ _ _ _ _ => true
  | .wrGfx mbz _ _ => mbz == 0#13
  | .wrPal mbz _ _ => mbz == 0#20
  | .wrRes mbz _ _ => mbz == 0#32

end Sys2Proof
end

