-- ==== Sys2Proof/Decode.lean ====
section
/-! DEFINITION. The opcode map, the decoder of a command word and its encoder (30_encoding.md rules R82 to R96). -/

namespace Sys2Proof

/-- One row of the opcode map, R92: a word belongs to the row when its masked bits are `pattern`. -/
structure OpcodeRow where
  mnemonic : String
  mask : CommandWord
  pattern : CommandWord
deriving DecidableEq, Repr

/-- The word has the row's fixed bits. -/
def OpcodeRow.matchesWord (r : OpcodeRow) (w : CommandWord) : Bool := w &&& r.mask == r.pattern

/-- The opcode map (R92), with the must-be-zero bits of format W among the fixed bits (R94). -/
def opcodeTable : List OpcodeRow :=
  [ ⟨"DECODE",   0xFF0000000000000000#72, 0x000000000000000000#72⟩,
    ⟨"PREVIEW",  0xFF0000000000000000#72, 0x010000000000000000#72⟩,
    ⟨"DEBUG",    0xFF0000000000000000#72, 0x020000000000000000#72⟩,
    ⟨"DECODEXY", 0xFF0000000000000000#72, 0x030000000000000000#72⟩,
    ⟨"PLACE",    0xFC0000000000000000#72, 0x040000000000000000#72⟩,
    ⟨"WR_GFX",   0xFFFFF8000000000000#72, 0x100000000000000000#72⟩,
    ⟨"WR_PAL",   0xFFFFFFF00000000000#72, 0x110000000000000000#72⟩,
    ⟨"WR_RES",   0xFFFFFFFFFF00000000#72, 0x120000000000000000#72⟩ ]

/-- The mnemonic of the row a command belongs to (R92). -/
def Instr.mnemonic : Instr → String
  | .decode _ _ _ _ => "DECODE"
  | .preview _ _ _ _ => "PREVIEW"
  | .debug _ _ _ _ => "DEBUG"
  | .decodexy _ _ _ _ => "DECODEXY"
  | .place _ _ _ _ _ => "PLACE"
  | .wrGfx _ _ _ => "WR_GFX"
  | .wrPal _ _ _ => "WR_PAL"
  | .wrRes _ _ _ => "WR_RES"

/-- Why a 72-bit word is no command of the table. Both end in FAULT(ILLEGAL_OP) (R93, R94). -/
inductive DecodeError where
  /-- `op` is 0x08 to 0x0F or 0x13 to 0xFF (R93). -/
  | reservedOpcode (op : BitVec 8)
  /-- A must-be-zero bit of the write command `op` is 1 (R94). -/
  | mustBeZero (op : BitVec 8)
deriving DecidableEq, Repr

/-- `cmd[71:64]`, the opcode (R82). -/
def opcodeOf (w : CommandWord) : BitVec 8 := w.extractLsb' 64 8

/-- Decoding is total (R96): read `op`; reserved, reject; else split the body by the format's table (R84); a
must-be-zero bit set, reject. -/
def decodeWord (w : CommandWord) : Except DecodeError Instr :=
  let op := opcodeOf w
  let f3 := w.extractLsb' 48 16
  let f2 := w.extractLsb' 32 16
  let f1 := w.extractLsb' 16 16
  let f0 := w.extractLsb' 0 16
  if op = 0x00#8 then .ok (.decode f3 f2 f1 f0)
  else if op = 0x01#8 then .ok (.preview f3 f2 f1 f0)
  else if op = 0x02#8 then .ok (.debug f3 f2 f1 f0)
  else if op = 0x03#8 then .ok (.decodexy f3 f2 f1 f0)
  else if op.extractLsb' 2 6 = 0b000001#6 then .ok (.place (op.extractLsb' 0 2) f3 f2 f1 f0)
  else if op = 0x10#8 then
    if w.extractLsb' 51 13 = 0#13 then
      .ok (.wrGfx (w.extractLsb' 51 13) (w.extractLsb' 32 19) (w.extractLsb' 0 32))
    else .error (.mustBeZero op)
  else if op = 0x11#8 then
    if w.extractLsb' 44 20 = 0#20 then
      .ok (.wrPal (w.extractLsb' 44 20) (w.extractLsb' 32 12) (w.extractLsb' 0 32))
    else .error (.mustBeZero op)
  else if op = 0x12#8 then
    if w.extractLsb' 32 32 = 0#32 then .ok (.wrRes (w.extractLsb' 32 32) f1 f0)
    else .error (.mustBeZero op)
  else .error (.reservedOpcode op)

/-- The 72-bit word of a command: the opcode of R92 over the body of R84. -/
def encode : Instr → CommandWord
  | .decode paf tileId v u => 0x00#8 ++ paf ++ tileId ++ v ++ u
  | .preview paf tileId v u => 0x01#8 ++ paf ++ tileId ++ v ++ u
  | .debug paf tileId v u => 0x02#8 ++ paf ++ tileId ++ v ++ u
  | .decodexy paf tileId y x => 0x03#8 ++ paf ++ tileId ++ y ++ x
  | .place corner paf tileId gridY gridX => 0b000001#6 ++ corner ++ paf ++ tileId ++ gridY ++ gridX
  | .wrGfx mbz waddr data => 0x10#8 ++ mbz ++ waddr ++ data
  | .wrPal mbz paddr color => 0x11#8 ++ mbz ++ paddr ++ color
  | .wrRes mbz resY resX => 0x12#8 ++ mbz ++ resY ++ resX

/-- The 72-bit word whose low `nbits` bits are those of `w`, the bits above them 0. A command is one word (R81), so
the table's numbering is the word's own. -/
def tableWord (nbits w : Nat) : CommandWord := BitVec.ofNat 72 (w % 2 ^ nbits)

/-- The command the decoder reads from the word with bits `w`; none where it rejects the word. -/
def decodeTableWord (nbits w : Nat) : Option Instr :=
  match decodeWord (tableWord nbits w) with
  | .ok i => some i
  | .error _ => none

end Sys2Proof
end

