-- ==== Sys2Proof/Machine/Constants.lean ====
section
/-! DEFINITION. The constants of 00_scope.md rule R5, each in one place (93_implementation_defined.md U8). -/

namespace Sys2Proof.Machine

/-- `TILE_SIZE`, pixels per tile side (R5). -/
@[reducible, simp] def tileSize : Nat := 8

/-- `PIXEL_SCALE`, the fixed magnification of the placement stage (R5). -/
@[reducible, simp] def pixelScale : Nat := 4

/-- `BANK_SIZE`, palette entries per bank (R5). -/
@[reducible, simp] def bankSize : Nat := 16

/-- `RECS_PER_TILE`, records per tile (R5). -/
@[reducible, simp] def recsPerTile : Nat := 2

/-- `REC_WORDS`, words per graphics record (R5). -/
@[reducible, simp] def recWords : Nat := 4

/-- `PREVIEW_DIM`, the side of the preview grid (R5). -/
@[reducible, simp] def previewDim : Nat := 16

/-- `DEBUG_TILE_ID`, the tile of DEBUG, an "observed constant" (R5, R201, U8). -/
@[reducible, simp] def debugTileId : Nat := 0x14

/-- `DEBUG_PAL_OFFSET`, the palette offset of DEBUG, an "observed constant" (R5, R201, U8). -/
@[reducible, simp] def debugPalOffset : Nat := 0x50

/-- The UV field that denotes 1 (R85). -/
@[reducible, simp] def uvOne : Nat := 0x8000

end Sys2Proof.Machine
end

