-- ==== Sys2Proof/Machine/Response.lean ====
section
/-! DEFINITION. The five kinds of response and the response word (30_encoding.md rules R100 and R101). -/

namespace Sys2Proof.Machine

/-- The six fault causes (R101, R221). -/
inductive Cause where
  | illegalOp
  | coordRange
  | tileRange
  | palRange
  | resZero
  | wrRange
deriving DecidableEq, Repr

/-- The cause code of R101. -/
def causeCode : Cause → BitVec 4
  | .illegalOp => 1#4
  | .coordRange => 2#4
  | .tileRange => 3#4
  | .palRange => 4#4
  | .resZero => 5#4
  | .wrRange => 6#4

/-- The one response of a command (R11, R100). -/
inductive Response where
  /-- A palette entry, all 32 bits unchanged (R174). -/
  | color (entry : Word)
  /-- The pixel is transparent (R171). -/
  | discard
  /-- The result of PLACE (R120): the numerators in 20-bit two's complement, `local_uv`, and the payload. -/
  | position (numX numY : BitVec 20) (outU outV tileId paf : Field)
  /-- A write was done. -/
  | ack
  /-- A contract violation (R220). -/
  | fault (cause : Cause)
deriving DecidableEq, Repr

/-- The `kind` field (R100). -/
def kindCode : Response → BitVec 4
  | .color _ => 0x0#4
  | .discard => 0x1#4
  | .position _ _ _ _ _ _ => 0x2#4
  | .ack => 0x3#4
  | .fault _ => 0xF#4

/-- The `cause` field: 0 but for a FAULT (R100). -/
def causeField : Response → BitVec 4
  | .fault c => causeCode c
  | _ => 0#4

/-- The payload `rsp[103:0]` (R100). -/
def payload : Response → BitVec 104
  | .color entry => 0#72 ++ entry
  | .position numX numY outU outV tileId paf => paf ++ tileId ++ outV ++ outU ++ numY ++ numX
  | _ => 0#104

/-- The response word (R100): `kind`, `cause`, 16 zero bits, the payload. -/
def encodeResponse (r : Response) : ResponseWord := kindCode r ++ causeField r ++ 0#16 ++ payload r

/-- The cause with a given code; codes 0 and 7 to 15 are no cause (R101). -/
def causeOfCode (c : BitVec 4) : Option Cause :=
  if c = 1#4 then some .illegalOp
  else if c = 2#4 then some .coordRange
  else if c = 3#4 then some .tileRange
  else if c = 4#4 then some .palRange
  else if c = 5#4 then some .resZero
  else if c = 6#4 then some .wrRange
  else none

/-- The response whose word has the fields of `w`, whatever its reserved bits hold. -/
def responseOfFields (w : ResponseWord) : Option Response :=
  let kind := w.extractLsb' 124 4
  if kind = 0x0#4 then some (.color (w.extractLsb' 0 32))
  else if kind = 0x1#4 then some .discard
  else if kind = 0x2#4 then
    some (.position (w.extractLsb' 0 20) (w.extractLsb' 20 20) (w.extractLsb' 40 16) (w.extractLsb' 56 16)
      (w.extractLsb' 72 16) (w.extractLsb' 88 16))
  else if kind = 0x3#4 then some .ack
  else if kind = 0xF#4 then (causeOfCode (w.extractLsb' 120 4)).map .fault
  else none

/-- What the host reads from a response word: none for a word the unit never produces, a reserved kind or cause or a
reserved bit that is 1 (R100, R101, U12). -/
def decodeResponse (w : ResponseWord) : Option Response :=
  match responseOfFields w with
  | some r => if encodeResponse r = w then some r else none
  | none => none

end Sys2Proof.Machine
end

