-- ==== Sys2Proof/Config.lean ====
section
/-! DEFINITION. What the platform fixes (00_scope.md rule R6) and the free values: the contents that a reset leaves
unspecified (10_state.md rule R40, 93_implementation_defined.md U6). -/

namespace Sys2Proof

/-- The parameters of R6 that the spec leaves open, and the two queue depths of R38. They are arguments of the model:
every statement about a state holds for each of their values. -/
structure Params where
  /-- `GFX_TILES`: graphics memory holds `2 * gfxTiles` records (R6, R34). -/
  gfxTiles : Nat
  /-- `PAL_ENTRIES`: the number of palette entries (R6, R35). -/
  palEntries : Nat
  /-- Depth of the command queue, `none` where it has no bound (R38, U16). -/
  cmdDepth : Option Nat
  /-- Depth of the response queue, `none` where it has no bound (R38, U16). -/
  rspDepth : Option Nat
deriving DecidableEq, Repr

/-- The configurations the spec allows: the ranges of R6 (U13 and U14 refuse every other value), and queues that
hold at least one word (U16; that a depth of 0 is refused is the model's choice, logs 2 and 7). -/
abbrev Params.Legal (p : Params) : Prop :=
  (1 ≤ p.gfxTiles ∧ p.gfxTiles ≤ 65536) ∧
  (16 ≤ p.palEntries ∧ p.palEntries ≤ 4096 ∧ p.palEntries % 16 = 0) ∧
  p.cmdDepth ≠ some 0 ∧ p.rspDepth ≠ some 0

/-- The values the spec's test vectors take (R7: 32 tiles, 256 entries), with unbounded queues (U16).
DESIGN CHOICE (log 2): `State.reset` takes these; no statement rests on them. -/
def Params.reference : Params := ⟨32, 256, none, none⟩

/-- FREE VALUE (log 3): the byte that graphics memory holds at a byte address nothing has written since reset number
`epoch` (R40, R222: "it returns whatever the memory holds"). Nothing constrains it. -/
opaque Config.unspecifiedGfx (epoch address : Nat) : Byte

/-- FREE VALUE (log 3): the byte that palette memory holds at a byte address nothing has written since reset number
`epoch` (R40, R222). Nothing constrains it. -/
opaque Config.unspecifiedPal (epoch address : Nat) : Byte

/-- FREE VALUE (logs 4, 5): what `RES_X` holds after reset number `epoch` (R40, R250, U6). Nothing constrains it. -/
opaque Config.unspecifiedResX (epoch : Nat) : Field

/-- FREE VALUE (logs 4, 5): what `RES_Y` holds after reset number `epoch` (R40, R250, U6). Nothing constrains it. -/
opaque Config.unspecifiedResY (epoch : Nat) : Field

end Sys2Proof
end

