-- ==== Sys2Proof/Machine/State.lean ====
section
/-! DEFINITION. The state of the unit (10_state.md), its reset value, and the reasons a step can stop. -/

namespace Sys2Proof.Machine

/-- A memory: the bytes written since reset, as (byte address, byte) pairs with strictly rising addresses. The byte
view is that of 20_memory.md rule R53: word `k` of record `r` is bytes `16*r + 4*k` to `16*r + 4*k + 3`, and palette
entry `i` is bytes `4*i` to `4*i + 3`, the least significant byte first. A byte that is not listed has not been
written since reset, and reads as an unspecified value (R40, R222; log 3). -/
abbrev Memory := List Host.Cell

/-- The canonical form: addresses strictly rising, so that equal memories are equal lists. No entry equals what an
unlisted address reads as, because an unlisted address holds no chosen value (log 3). -/
abbrev Memory.Wf (m : Memory) : Prop := m.Pairwise (fun c d => c.1 < d.1)

/-- The machine faults never: a contract violation is the in-band FAULT response, after which the unit goes on with
the next command (60_exceptions.md rules R220, R224), and no command is stuck (R11, R223). The type has no constructor,
so that no step can end in a fault. -/
inductive Fault where
deriving DecidableEq, Repr

/-- Why a step is refused. -/
inductive Refusal where
  /-- Raised by an arm of `exec` for an instruction with no meaning yet; no arm of this model does. Safe. -/
  | notModelled (mnemonic : String)
  /-- Raised by `step` when the parameters are outside the ranges of R6: "A configuration outside that range is
  `refuse`d" (93_implementation_defined.md U13, U14). Raised too for a queue depth of 0, which U16 excludes without saying
  what becomes of it: DESIGN CHOICE (logs 2 and 7). Safe. -/
  | illegalConfiguration
deriving DecidableEq, Repr

/-- The state of the unit. `params`, `resWritten` and `epoch` are the MODEL's own fields; the others are the spec's
(R9, R34, R35, R36, R38, R40). -/
structure State where
  /-- The parameters of R6 and the queue depths of R38: fixed, an argument of the model (log 2). -/
  params : Params
  /-- Graphics memory `GFX` (R34), as the bytes written since reset. -/
  gfx : Memory
  /-- Palette memory `PAL` (R35), as the bytes written since reset. -/
  pal : Memory
  /-- `RES_X`, the horizontal resolution (R36). -/
  resX : Field
  /-- `RES_Y`, the vertical resolution (R36). -/
  resY : Field
  /-- The `RES` pair has been written since reset: the bit 93_implementation_defined.md U6 (b) tracks. No command
  reads it; `Safety` does (R252). -/
  resWritten : Bool
  /-- The command queue: accepted words not yet executed, the oldest first (R38). -/
  commands : List CommandWord
  /-- The response queue: emitted words not yet taken, the oldest first (R38). -/
  responses : List ResponseWord
  /-- The command counter: the number of the next command to be accepted (R31, R40). -/
  accepted : Nat
  /-- `rst_n` is low, or no rising edge of `clk` has come since it went high (R250). -/
  inReset : Bool
  /-- How many resets this unit has had: the index of the free values of `Config` (log 3). -/
  epoch : Nat
deriving DecidableEq, Repr

/-- The unit right after reset, for the parameters `p` (R40, R250): both queues empty, the command counter 0, nothing
written in either memory. DESIGN CHOICE (log 4): `RES_X` and `RES_Y`, which the spec leaves unspecified and never to be
assumed zero (U6), hold the named free values of epoch 0. -/
def State.resetWith (p : Params) : State where
  params := p
  gfx := []
  pal := []
  resX := Config.unspecifiedResX 0
  resY := Config.unspecifiedResY 0
  resWritten := false
  commands := []
  responses := []
  accepted := 0
  inReset := false
  epoch := 0

/-- The unit right after reset, with the parameters the spec's test vectors take (R7; log 2). -/
def State.reset : State := State.resetWith Params.reference

end Sys2Proof.Machine
end

