-- ==== Sys2Proof/Machine/Ops.lean ====
section
/-! DEFINITION. The primitives of 00_scope.md rule R13 over the two memories, the two registers and the two queues, and
the one operation that takes a fault (60_exceptions.md rule R224). -/

namespace Sys2Proof.Machine

/-! ### A memory, byte by byte -/

/-- The byte written at address `a` since reset, if one was. -/
def Memory.byte? : Memory → Nat → Option Byte
  | [], _ => none
  | (x, b) :: m, a => if x = a then some b else Memory.byte? m a

/-- Write one byte, keeping the addresses strictly rising. -/
def Memory.putByte : Memory → Nat → Byte → Memory
  | [], a, v => [(a, v)]
  | (x, b) :: m, a, v =>
    if a < x then (a, v) :: (x, b) :: m
    else if a = x then (a, v) :: m
    else (x, b) :: Memory.putByte m a v

/-- Write the 32-bit word `v` at word address `wa`: bytes `4*wa` to `4*wa + 3`, the least significant first (R53). -/
def Memory.putWord (m : Memory) (wa : Nat) (v : Word) : Memory :=
  (((m.putByte (4 * wa) (v.extractLsb' 0 8)).putByte (4 * wa + 1) (v.extractLsb' 8 8)).putByte (4 * wa + 2)
    (v.extractLsb' 16 8)).putByte (4 * wa + 3) (v.extractLsb' 24 8)

/-- All four bytes of the word at word address `wa` have been written since reset (U6 (b)). -/
def Memory.wordWritten (m : Memory) (wa : Nat) : Bool :=
  (m.byte? (4 * wa)).isSome && (m.byte? (4 * wa + 1)).isSome && (m.byte? (4 * wa + 2)).isSome &&
    (m.byte? (4 * wa + 3)).isSome

/-! ### Reads. A read has no side effect (R56) -/

/-- The byte of graphics memory at byte address `a`; where nothing has been written since reset it is a free value,
and the read completes (R222, R252; log 3). -/
def State.gfxByte (s : State) (a : Nat) : Byte := (s.gfx.byte? a).getD (Config.unspecifiedGfx s.epoch a)

/-- The byte of palette memory at byte address `a`; a free value where nothing has been written since reset (log 3). -/
def State.palByte (s : State) (a : Nat) : Byte := (s.pal.byte? a).getD (Config.unspecifiedPal s.epoch a)

/-- The word of graphics memory at word address `wa`, little-endian in the byte view (R53). -/
def State.gfxWord (s : State) (wa : Nat) : Word :=
  s.gfxByte (4 * wa + 3) ++ s.gfxByte (4 * wa + 2) ++ s.gfxByte (4 * wa + 1) ++ s.gfxByte (4 * wa)

/-- `MemRead(GFX, r)`: the 128-bit record at record address `r`, word 0 in the low bits (R13, R34). -/
def State.gfxRecord (s : State) (r : Nat) : Record :=
  s.gfxWord (4 * r + 3) ++ s.gfxWord (4 * r + 2) ++ s.gfxWord (4 * r + 1) ++ s.gfxWord (4 * r)

/-- `MemRead(PAL, i)`: the 32-bit entry at palette address `i` (R13, R35). -/
def State.palEntry (s : State) (i : Nat) : Word :=
  s.palByte (4 * i + 3) ++ s.palByte (4 * i + 2) ++ s.palByte (4 * i + 1) ++ s.palByte (4 * i)

/-! ### Writes -/

/-- `MemWrite(GFX, r, k, v)`: `GFX[r].w[k] <- v`, a 32-bit write at word address `4*r + k` (R13, R56). -/
def State.writeGfx (s : State) (r k : Nat) (v : Word) : State := { s with gfx := s.gfx.putWord (4 * r + k) v }

/-- `MemWrite(PAL, i, v)`: `PAL[i] <- v` (R13, R56). -/
def State.writePal (s : State) (i : Nat) (v : Word) : State := { s with pal := s.pal.putWord i v }

/-- `RES_X <- x ; RES_Y <- y`, both together (R36, R212). -/
def State.writeRes (s : State) (x y : Field) : State := { s with resX := x, resY := y, resWritten := true }

/-! ### The one response of a command -/

/-- `respond K(args)`: append the one response of this command to the response queue (R13, R38). -/
def State.respond (s : State) (r : Response) : State := { s with responses := s.responses ++ [encodeResponse r] }

/-- TAKING A FAULT, `raise Fault(cause)`: emit the FAULT response in the command's place in the response order.
Nothing is saved, no mode changes and control goes nowhere (R224); nothing is restored afterwards, there is no
return from a fault (R225). -/
def State.raise (s : State) (c : Cause) : State := s.respond (.fault c)

/-- End a command that writes no state, with the response its pseudocode reached or the fault it raised (R13). -/
def State.conclude (s : State) : Except Cause Response → State
  | .ok r => s.respond r
  | .error c => s.raise c

/-! ### The command queue -/

/-- A queue of the given depth that holds `n` words has room for one more (R38, U16). -/
def hasRoom (depth : Option Nat) (n : Nat) : Bool :=
  match depth with
  | none => true
  | some d => decide (n < d)

/-- The response queue can take one more response; where it cannot, the unit stops executing (R256). -/
def State.responseRoom (s : State) : Bool := hasRoom s.params.rspDepth s.responses.length

/-- The state with the command queue `q`. -/
def State.withCommands (s : State) (q : List CommandWord) : State := { s with commands := q }

end Sys2Proof.Machine
end

