-- ==== Sys2Proof/Machine/Flags.lean ====
section
/-! DEFINITION. The unit has no status flag, no condition code and no predicate (10_state.md rule R32), so no command
writes one. What stands here are the condition outputs of the sub-blocks: `range_err` of uv_to_tile_coord (R146), and
`discard` and `pal_range_err` of palette_resolver (R175). They are combinational: nothing keeps them. -/

namespace Sys2Proof.Machine

/-- A UV field above 0x8000 denotes a number above 1 (R85, R142). -/
def uvAboveOne (u v : Field) : Bool := decide (uvOne < u.toNat) || decide (uvOne < v.toNat)

/-- `floor(uv.x * 2^(15 - shift))`: the column of a field `U` in a grid of `2^(15 - shift)` columns (R141, R191). -/
def gridColumn (shift : Nat) (u : Field) : Nat := u.toNat >>> shift

/-- `floor((1 - uv.y) * 2^(15 - shift))`: the row of a field `V`, with the vertical flip (R141, R191). -/
def gridRow (shift : Nat) (v : Field) : Nat := (uvOne - v.toNat) >>> shift

/-- `range_err`: exactly when R140 faults (R146). -/
def rangeErr (u v : Field) : Bool :=
  uvAboveOne u v || gridColumn 12 u == tileSize || gridRow 12 v == tileSize

/-- `discard`: the colour index is 0 (R171, R175). -/
def discardFlag (index : ColorIndex) : Bool := index == 0#4

/-- `pal_range_err`: the index is not 0 and the palette address is at or above `PAL_ENTRIES` (R173, R175). -/
def palRangeErr (s : State) (index : ColorIndex) (offset : Nat) : Bool :=
  !discardFlag index && decide (s.params.palEntries ≤ index.toNat + offset)

end Sys2Proof.Machine
end

