-- ==== Sys2Proof/Machine/Operands.lean ====
section
/-! DEFINITION. Operand assembly (30_encoding.md rules R85 to R91): what the fields of a command denote. -/

namespace Sys2Proof.Machine

/-- A pixel coordinate inside a tile: column `px` and row `py`, 3 bits each (R146). -/
abbrev PixelCoord := BitVec 3 × BitVec 3

/-- `uv_to_tile_coord(U, V)` (R140): the pixel under a UV point, or COORD_RANGE. -/
def uvToTileCoord (u v : Field) : Except Cause PixelCoord :=
  if rangeErr u v then .error .coordRange
  else .ok (BitVec.ofNat 3 (gridColumn 12 u), BitVec.ofNat 3 (gridRow 12 v))

/-- The coordinate of format C: `px = X`, `py = Y`, legal from 0 to 7 (R86, R181). -/
def xyToTileCoord (x y : Field) : Except Cause PixelCoord :=
  if 7 < x.toNat ∨ 7 < y.toNat then .error .coordRange
  else .ok (BitVec.ofNat 3 x.toNat, BitVec.ofNat 3 y.toNat)

/-- The palette address under a point of the unit square: column and row of the 16×16 preview grid, or COORD_RANGE
outside it (R190, R192). -/
def uvToPreviewIndex (u v : Field) : Except Cause Nat :=
  if uvAboveOne u v then .error .coordRange
  else if gridColumn 11 u = previewDim ∨ gridRow 11 v = previewDim then .error .coordRange
  else .ok (gridColumn 11 u + gridRow 11 v * previewDim)

/-- `bank = paf[7:0]`; the flag bits `paf[15:8]` are inert (R89). -/
def bankOf (paf : Field) : BitVec 8 := paf.extractLsb' 0 8

/-- `palette_offset_of(paf) = (paf & 0xFF) * 16` (R170, R172). -/
def paletteOffsetOf (paf : Field) : Nat := (bankOf paf).toNat * bankSize

/-- `sext_16` of a grid field (R12, R87). -/
def gridValue (g : Field) : Int := g.toInt

/-- `lx = corner[0]`, 0 or 1 (R121). -/
def cornerX (corner : BitVec 2) : Nat := (corner.extractLsb' 0 1).toNat

/-- `ly = corner[1]`, 0 or 1 (R121). -/
def cornerY (corner : BitVec 2) : Nat := (corner.extractLsb' 1 1).toNat

/-- The record address of a graphics word address, `waddr >> 2` (R91). -/
def recordOfWaddr (waddr : BitVec 19) : Nat := waddr.toNat >>> 2

/-- The word in the record of a graphics word address, `waddr & 3` (R91). -/
def wordOfWaddr (waddr : BitVec 19) : Nat := waddr.toNat &&& 3

end Sys2Proof.Machine
end

