-- ==== Sys2Proof/Machine/Load.lean ====
section
/-! DEFINITION. The load commands WR_GFX, WR_PAL and WR_RES, the only ones that change state (47_load_commands.md). -/

namespace Sys2Proof.Machine

/-- WR_GFX: write one 32-bit word of graphics memory (R210). -/
def execWrGfx (mbz : BitVec 13) (waddr : BitVec 19) (data : Word) (s : State) : Host.Outcome State Fault Refusal :=
  .next
    (if mbz ≠ 0#13 then s.raise .illegalOp
     else if recsPerTile * s.params.gfxTiles ≤ recordOfWaddr waddr then s.raise .wrRange
     else (s.writeGfx (recordOfWaddr waddr) (wordOfWaddr waddr) data).respond .ack)

/-- WR_PAL: write one palette entry (R211). -/
def execWrPal (mbz : BitVec 20) (paddr : BitVec 12) (color : Word) (s : State) : Host.Outcome State Fault Refusal :=
  .next
    (if mbz ≠ 0#20 then s.raise .illegalOp
     else if s.params.palEntries ≤ paddr.toNat then s.raise .wrRange
     else (s.writePal paddr.toNat color).respond .ack)

/-- WR_RES: write the resolution uniform, both registers together; 0 is a legal value (R212). -/
def execWrRes (mbz : BitVec 32) (resY resX : Field) (s : State) : Host.Outcome State Fault Refusal :=
  .next
    (if mbz ≠ 0#32 then s.raise .illegalOp
     else (s.writeRes resX resY).respond .ack)

end Sys2Proof.Machine
end

