-- ==== Sys2Proof/Machine/PaletteResolver.lean ====
section
/-! DEFINITION. Sub-block palette_resolver: the transparency test and the indexed colour lookup (43_palette_resolver.md). -/

namespace Sys2Proof.Machine

/-- `resolve(index, palette_offset)` (R170): DISCARD for index 0, before any address is formed (R171); else PAL_RANGE
for an address outside the palette (R173); else the stored entry unchanged (R174). -/
def resolve (s : State) (index : ColorIndex) (offset : Nat) : Except Cause Response :=
  if discardFlag index then .ok .discard
  else if palRangeErr s index offset then .error .palRange
  else .ok (.color (s.palEntry (index.toNat + offset)))

end Sys2Proof.Machine
end

