-- ==== Sys2Proof/Machine/TileDecoder.lean ====
section
/-! DEFINITION. Sub-block tile_decoder: the tile fetch and the bitplane unpacker (42_tile_decoder.md). -/

namespace Sys2Proof.Machine

/-- `part.w[k]`, word `k` of a record: bits `[32k+31 : 32k]` (R34). -/
def recordWord (part : Record) (k : Nat) : Word := part.extractLsb' (32 * k) 32

/-- Steps 3 and 4: word `py >> 1` of the record, then its low or high half as `py & 1` is 0 or 1 (R151, R152). The
selector is `py & 1`, not the `py & 3` of the source's text (90_conflicts.md C3, U7). -/
def recordLine (part : Record) (py : BitVec 3) : BitVec 16 :=
  ((recordWord part (py.toNat >>> 1) >>> (16 * (py.toNat &&& 1))) &&& 0xFFFF#32).extractLsb' 0 16

/-- `(line >> n) & 1`, one bit of a line as a 4-bit number (R153). -/
def lineBit (line : BitVec 16) (n : Nat) : ColorIndex := ((line >>> n) &&& 1#16).extractLsb' 0 4

/-- `unpack(part1, part2, px, py)`: the 4-bit colour index (R153, R154). -/
def unpack (part1 part2 : Record) (px py : BitVec 3) : ColorIndex :=
  let line1 := recordLine part1 py
  let line2 := recordLine part2 py
  lineBit line1 (7 - px.toNat) ||| (lineBit line1 (15 - px.toNat) <<< 1) |||
    (lineBit line2 (7 - px.toNat) <<< 2) ||| (lineBit line2 (15 - px.toNat) <<< 3)

/-- `tile_index(tile_id, px, py)`: TILE_RANGE where the tile is outside graphics memory, else the index unpacked from
the tile's two records (R52, R150, R154). -/
def tileIndex (s : State) (tileId : Nat) (coord : PixelCoord) : Except Cause ColorIndex :=
  if s.params.gfxTiles ≤ tileId then .error .tileRange
  else .ok (unpack (s.gfxRecord (tileId * recsPerTile)) (s.gfxRecord (tileId * recsPerTile + 1)) coord.1 coord.2)

end Sys2Proof.Machine
end

