-- ==== Sys2Proof/Machine/Pixel.lean ====
section
/-! DEFINITION. The pixel commands DECODE and DECODEXY (44_decode_resolve.md), PREVIEW (45_preview.md) and DEBUG
(46_debug_fixed_tile.md). None writes state (10_state.md rule R39): each ends in one response. -/

namespace Sys2Proof.Machine

/-- The steps DECODE, DECODEXY and DEBUG share once the coordinate is asked for: the coordinate, then the tile's
index, then the colour; the first fault met is the one reported (R180, R226). -/
def pixelResponse (s : State) (coord : Except Cause PixelCoord) (tileId offset : Nat) : Except Cause Response := do
  let p ← coord
  let index ← tileIndex s tileId p
  resolve s index offset

/-- The response of PREVIEW: the entry under the point, or PAL_RANGE in a palette too small for it (R190, R193). There
is no transparency: entry 0 is answered like any other. -/
def previewResponse (s : State) (u v : Field) : Except Cause Response := do
  let idx ← uvToPreviewIndex u v
  if s.params.palEntries ≤ idx then .error .palRange
  else .ok (.color (s.palEntry idx))

/-- DECODE: decode and resolve one pixel addressed by UV (R180). -/
def execDecode (paf tileId v u : Field) (s : State) : Host.Outcome State Fault Refusal :=
  .next (s.conclude (pixelResponse s (uvToTileCoord u v) tileId.toNat (paletteOffsetOf paf)))

/-- DECODEXY: decode and resolve one pixel addressed by integer coordinate (R181). -/
def execDecodexy (paf tileId y x : Field) (s : State) : Host.Outcome State Fault Refusal :=
  .next (s.conclude (pixelResponse s (xyToTileCoord x y) tileId.toNat (paletteOffsetOf paf)))

/-- PREVIEW: look up the palette entry under a point of the unit square (R190); `paf` and `tile_id` are ignored
(R95). -/
def execPreview (_paf _tileId v u : Field) (s : State) : Host.Outcome State Fault Refusal :=
  .next (s.conclude (previewResponse s u v))

/-- DEBUG: DECODE with the fixed tile and the fixed palette offset (R200, R201); `paf` and `tile_id` are ignored
(R95). -/
def execDebug (_paf _tileId v u : Field) (s : State) : Host.Outcome State Fault Refusal :=
  .next (s.conclude (pixelResponse s (uvToTileCoord u v) debugTileId debugPalOffset))

end Sys2Proof.Machine
end

