-- ==== Sys2Proof/Machine/Placement.lean ====
section
/-! DEFINITION. The placement stage, command PLACE (40_placement.md). Every quantity is an exact integer. -/

namespace Sys2Proof.Machine

/-- `pos_x = 8*lx + gx` (R122). -/
def placeX (corner : BitVec 2) (gridX : Field) : Int := (tileSize * cornerX corner : Nat) + gridValue gridX

/-- `pos_y = 8*ly - gy - 8` (R122): the vertical offset is applied before the scaling. -/
def placeY (corner : BitVec 2) (gridY : Field) : Int :=
  (tileSize * cornerY corner : Nat) - gridValue gridY - (tileSize : Nat)

/-- `num_x = 4 * pos_x - RES_X` (R123, R124). The sign choices stand here and in `placeNumY` only (U9). -/
def placeNumX (resX : Field) (corner : BitVec 2) (gridX : Field) : Int :=
  (pixelScale : Nat) * placeX corner gridX - (resX.toNat : Nat)

/-- `num_y = 4 * pos_y + RES_Y` (R123, R124). -/
def placeNumY (resY : Field) (corner : BitVec 2) (gridY : Field) : Int :=
  (pixelScale : Nat) * placeY corner gridY + (resY.toNat : Nat)

/-- `local_uv` in the UV encoding: 0 or 0x8000 (R127). -/
def localUv (l : Nat) : Field := BitVec.ofNat 16 (uvOne * l)

/-- The response of PLACE (R120): RES_ZERO where a resolution register is 0 (R126), else POSITION with the numerators,
`local_uv` and the payload unchanged (R127). No range is checked (R128). -/
def placeResponse (s : State) (corner : BitVec 2) (paf tileId gridY gridX : Field) : Except Cause Response :=
  if s.resX = 0#16 ∨ s.resY = 0#16 then .error .resZero
  else .ok (.position (BitVec.ofInt 20 (placeNumX s.resX corner gridX)) (BitVec.ofInt 20 (placeNumY s.resY corner gridY))
    (localUv (cornerX corner)) (localUv (cornerY corner)) tileId paf)

/-- PLACE: place one corner of a tile's quad (R120). -/
def execPlace (corner : BitVec 2) (paf tileId gridY gridX : Field) (s : State) : Host.Outcome State Fault Refusal :=
  .next (s.conclude (placeResponse s corner paf tileId gridY gridX))

end Sys2Proof.Machine
end

