-- ==== Sys2Proof/Machine/Dispatch.lean ====
section
/-! DEFINITION. The dispatch: one arm per command (30_encoding.md rule R92), one meaning per arm. -/

namespace Sys2Proof.Machine

/-- Execute one decoded command: read and perhaps write the state, and emit one response (R8, R11). -/
def exec (i : Instr) (s : State) : Host.Outcome State Fault Refusal :=
  match i with
  | .decode paf tileId v u => Sys2Proof.Machine.execDecode paf tileId v u s
  | .preview paf tileId v u => Sys2Proof.Machine.execPreview paf tileId v u s
  | .debug paf tileId v u => Sys2Proof.Machine.execDebug paf tileId v u s
  | .decodexy paf tileId y x => Sys2Proof.Machine.execDecodexy paf tileId y x s
  | .place corner paf tileId gridY gridX => Sys2Proof.Machine.execPlace corner paf tileId gridY gridX s
  | .wrGfx mbz waddr data => Sys2Proof.Machine.execWrGfx mbz waddr data s
  | .wrPal mbz paddr color => Sys2Proof.Machine.execWrPal mbz paddr color s
  | .wrRes mbz resY resX => Sys2Proof.Machine.execWrRes mbz resY resX s

end Sys2Proof.Machine
end

