-- ==== Sys2Proof/Machine/Fetch.lean ====
section
/-! DEFINITION. Taking the oldest command from the command queue and executing its word (10_state.md rules R31, R38). -/

namespace Sys2Proof.Machine

/-- The oldest command not yet executed, and the state without it. None when the command queue is empty (the unit is
idle, R235) and when the response queue has no room (the unit stops executing, R256). -/
def fetch (s : State) : Option (CommandWord × State) :=
  match s.commands with
  | [] => none
  | w :: rest => if s.responseRoom then some (w, s.withCommands rest) else none

/-- Execute one command word. Decoding is total (R96): a word that is no command of the table raises ILLEGAL_OP and
has no other effect (R93, R94). -/
def execWord (w : CommandWord) (s : State) : Host.Outcome State Fault Refusal :=
  match decodeWord w with
  | .ok i => exec i s
  | .error _ => .next (s.raise .illegalOp)

/-- The command words of a list, executed in order, each to completion before the next (R31, R58); the first one that
does not answer a next state ends the run. -/
def execWords : List CommandWord → State → Host.Outcome State Fault Refusal
  | [], s => .next s
  | w :: ws, s =>
    match execWord w s with
    | .next t => execWords ws t
    | .fault f => .fault f
    | .refused r => .refused r

/-- The command queue with its oldest command replaced by `w`, and a response queue with room: the host has taken the
responses where they filled the queue. -/
def State.offer (s : State) (w : CommandWord) : State :=
  { s with commands := w :: s.commands.tail, responses := if s.responseRoom then s.responses else [] }

end Sys2Proof.Machine
end

