-- ==== Sys2Proof/Machine/Step.lean ====
section
/-! DEFINITION. One step of the unit (00_scope.md rule R8): one command, or nothing where there is none to execute. -/

namespace Sys2Proof.Machine

/-- One step. A configuration outside the ranges of R6 is refused (U13, U14), and so is a queue depth of 0 (DESIGN CHOICE,
logs 2 and 7). With a command to execute, it is taken
from the queue and executed (R8, R31); with none, the unit is idle and all state is kept (R235, R256). -/
def step (s : State) : Host.Outcome State Fault Refusal :=
  if s.params.Legal then
    match fetch s with
    | none => .next s
    | some (w, t) => execWord w t
  else .refused .illegalConfiguration

/-- The state in which the very next step executes the word with bits `w` (log 6): it stands as the oldest command of
the command queue, in place of the oldest one there. A program is loaded from outside the machine, by the host's
accepted commands. -/
def State.withFetchWord (s : State) (nbits w : Nat) : State := s.offer (tableWord nbits w)

end Sys2Proof.Machine
end

