-- ==== Sys2Proof/Machine/Asm.lean ====
section
/-! DEFINITION. The textual syntax of a command and the two pseudo-commands (30_encoding.md rules R102 and R103): notation
of the spec, which no step reads. A line is taken after its characters are read: a mnemonic and its named operands in
order. A program is a list of commands in order (10_state.md rule R31). -/

namespace Sys2Proof.Machine

/-- A line of R102: a mnemonic followed by named operands. -/
structure AsmLine where
  mnemonic : String
  operands : List (String × Int)
deriving DecidableEq, Repr

/-- An unsigned operand in a field of `n` bits; none where it does not fit. -/
def unsignedField (n : Nat) (x : Int) : Option (BitVec n) :=
  if 0 ≤ x ∧ x < 2 ^ n then some (BitVec.ofInt n x) else none

/-- A signed operand in a field of 16 bits, two's complement; none where it does not fit (R87). -/
def signedField (x : Int) : Option Field :=
  if -32768 ≤ x ∧ x ≤ 32767 then some (BitVec.ofInt 16 x) else none

/-- The operands of a line whose names are those given, in the order given. -/
def operandValues : List String → List (String × Int) → Option (List Int)
  | [], [] => some []
  | n :: ns, (m, x) :: ops => if n = m then (operandValues ns ops).map (x :: ·) else none
  | _, _ => none

/-- The command a line stands for (R102): "Encodes as". PREVIEW and DEBUG are written without the fields they ignore,
which are then 0; none where the mnemonic, a name, an order or a range is not the table's. -/
def assemble (l : AsmLine) : Option Instr :=
  if l.mnemonic = "DECODE" then
    match operandValues ["u", "v", "tile", "paf"] l.operands with
    | some [u, v, t, p] => do
      return .decode (← unsignedField 16 p) (← unsignedField 16 t) (← unsignedField 16 v) (← unsignedField 16 u)
    | _ => none
  else if l.mnemonic = "PREVIEW" then
    match operandValues ["u", "v"] l.operands with
    | some [u, v] => do return .preview 0 0 (← unsignedField 16 v) (← unsignedField 16 u)
    | _ => none
  else if l.mnemonic = "DEBUG" then
    match operandValues ["u", "v"] l.operands with
    | some [u, v] => do return .debug 0 0 (← unsignedField 16 v) (← unsignedField 16 u)
    | _ => none
  else if l.mnemonic = "DECODEXY" then
    match operandValues ["x", "y", "tile", "paf"] l.operands with
    | some [x, y, t, p] => do
      return .decodexy (← unsignedField 16 p) (← unsignedField 16 t) (← unsignedField 16 y) (← unsignedField 16 x)
    | _ => none
  else if l.mnemonic = "PLACE" then
    match operandValues ["corner", "gx", "gy", "tile", "paf"] l.operands with
    | some [c, gx, gy, t, p] => do
      return .place (← unsignedField 2 c) (← unsignedField 16 p) (← unsignedField 16 t) (← signedField gy)
        (← signedField gx)
    | _ => none
  else if l.mnemonic = "WR_GFX" then
    match operandValues ["waddr", "data"] l.operands with
    | some [a, d] => do return .wrGfx 0 (← unsignedField 19 a) (← unsignedField 32 d)
    | _ => none
  else if l.mnemonic = "WR_PAL" then
    match operandValues ["paddr", "color"] l.operands with
    | some [a, c] => do return .wrPal 0 (← unsignedField 12 a) (← unsignedField 32 c)
    | _ => none
  else if l.mnemonic = "WR_RES" then
    match operandValues ["x", "y"] l.operands with
    | some [x, y] => do return .wrRes 0 (← unsignedField 16 y) (← unsignedField 16 x)
    | _ => none
  else none

/-- `WR_TILE tile=t, w0, ..., w7`: eight commands `WR_GFX waddr=8*t + j, data=w_j` in that order (R103). -/
def wrTile (t : Field) (words : Vector Word 8) : List Instr :=
  (List.finRange 8).map fun j => .wrGfx 0 (BitVec.ofNat 19 (8 * t.toNat + j.val)) words[j]

/-- `WR_BANK bank=b, c0, ..., c15`: sixteen commands `WR_PAL paddr=16*b + j, color=c_j` in that order (R103). -/
def wrBank (b : BitVec 8) (colors : Vector Word 16) : List Instr :=
  (List.finRange 16).map fun j => .wrPal 0 (BitVec.ofNat 12 (16 * b.toNat + j.val)) colors[j]

/-- The commands of a list, executed in order, each to completion before the next (R31, R58); the first one that does
not answer a next state ends the run. -/
def execAll : List Instr → State → Host.Outcome State Fault Refusal
  | [], s => .next s
  | i :: is, s =>
    match exec i s with
    | .next t => execAll is t
    | .fault f => .fault f
    | .refused r => .refused r

end Sys2Proof.Machine
end

