-- ==== Sys2Proof/Machine/HostPort.lean ====
section
/-! DEFINITION. What the host can do to the unit through its ports (30_encoding.md rule R80): offer a command, take a
response, reset. The host has no other way to touch the state (00_scope.md rule R8). No rule depends on a cycle count
(R257), so each is one event. -/

namespace Sys2Proof.Machine

/-- `cmd_ready`: the unit can accept a command (R80); low while the command queue is full (R256) and in reset (R250).
DESIGN CHOICE (log 15): R80 does not specify when and for how long it is low; here it is high at every other time. -/
def State.cmdReady (s : State) : Bool := !s.inReset && hasRoom s.params.cmdDepth s.commands.length

/-- `rsp_valid`: the unit offers a response word (R80); low in reset (R250). DESIGN CHOICE (log 15): R80 does not specify
how long after its command a response is offered; here it is offered from the step that emits it on. -/
def State.rspValid (s : State) : Bool := !s.inReset && !s.responses.isEmpty

/-- The host offers the command word `w` (R80): accepted, it joins the queue and the command counter moves on (R31,
R38); with `cmd_ready` low, nothing happens. -/
def State.accept (s : State) (w : CommandWord) : State :=
  if s.cmdReady then { s with commands := s.commands ++ [w], accepted := s.accepted + 1 } else s

/-- The host takes the oldest response (R38, R80); none while `rsp_valid` is low. -/
def State.take (s : State) : Option (ResponseWord × State) :=
  match s.responses with
  | [] => none
  | r :: rest => if s.inReset then none else some (r, { s with responses := rest })

/-- The host drives `rst_n` low (R250): both queues are emptied, without a response for the commands dropped, and the
command counter is 0. The memories and the resolution registers are unspecified, whether or not they were written
before: nothing counts as written, and every value is a free value of the new epoch (R40; log 5). -/
def State.assertReset (s : State) : State where
  params := s.params
  gfx := []
  pal := []
  resX := Config.unspecifiedResX (s.epoch + 1)
  resY := Config.unspecifiedResY (s.epoch + 1)
  resWritten := false
  commands := []
  responses := []
  accepted := 0
  inReset := true
  epoch := s.epoch + 1

/-- The first rising edge of `clk` with `rst_n` high ends the reset (R250). -/
def State.releaseReset (s : State) : State := { s with inReset := false }

/-- The host pulses `rst_n` (R250). -/
def State.resetPulse (s : State) : State := s.assertReset.releaseReset

end Sys2Proof.Machine
end

