-- ==== Sys2Proof/Safety.lean ====
section
/-! DEFINITION. What counts as a safe run (60_exceptions.md rule R238), the boot requirements of a command
(70_reset_and_hazards.md rule R252), and the invariant of the machine. -/

namespace Sys2Proof.Machine

/-- A response word of kind FAULT (R100). -/
def isFaultWord (w : ResponseWord) : Bool := w.extractLsb' 124 4 == 0xF#4

/-- The goal a claim about a command stream takes: "no response is FAULT" (R238). -/
abbrev State.NoFault (s : State) : Prop := ∀ w ∈ s.responses, isFaultWord w = false

/-- All eight words of the tile have been written since reset (R252; a tile fetch counts as a read of all eight, U6). -/
def State.tileWritten (s : State) (tileId : Nat) : Bool :=
  (List.range 8).all fun j => s.gfx.wordWritten (8 * tileId + j)

/-- The palette entry has been written since reset (R252). -/
def State.entryWritten (s : State) (i : Nat) : Bool := s.pal.wordWritten i

/-- What a pixel of a tile reads has been written since reset: the tile where it is in range, and the one entry that
the resolver addresses where the index is not 0 and the address is in range (R55, R252, U6 (b)). -/
def State.pixelWritten (s : State) (coord : Except Cause PixelCoord) (tileId offset : Nat) : Bool :=
  match coord with
  | .error _ => true
  | .ok p =>
    match tileIndex s tileId p with
    | .error _ => true
    | .ok index =>
      s.tileWritten tileId &&
        (discardFlag index || palRangeErr s index offset || s.entryWritten (index.toNat + offset))

/-- The boot requirement of R252: every location the command reads has been written since reset, as the bits of U6 (b)
track it. The hardware does not check it (R222). -/
def State.bootMet (s : State) : Instr → Bool
  | .decode paf tileId v u => s.pixelWritten (uvToTileCoord u v) tileId.toNat (paletteOffsetOf paf)
  | .decodexy paf tileId y x => s.pixelWritten (xyToTileCoord x y) tileId.toNat (paletteOffsetOf paf)
  | .debug _ _ v u => s.pixelWritten (uvToTileCoord u v) debugTileId debugPalOffset
  | .preview _ _ v u =>
    match uvToPreviewIndex u v with
    | .error _ => true
    | .ok idx => decide (s.params.palEntries ≤ idx) || s.entryWritten idx
  | .place _ _ _ _ _ => s.resWritten
  | .wrGfx _ _ _ => true
  | .wrPal _ _ _ => true
  | .wrRes _ _ _ => true

/-- The state with other unspecified contents (U6): the free values of the memories are those of reset number `e`, and
the resolution registers hold `x` and `y` where no WR_RES has written them since reset. What has been written stays. -/
def State.withUnspecified (s : State) (e : Nat) (x y : Field) : State :=
  { s with epoch := e, resX := if s.resWritten then s.resX else x, resY := if s.resWritten then s.resY else y }

/-- A queue of `n` words is within its depth (R38, U16). -/
abbrev WithinDepth (depth : Option Nat) (n : Nat) : Prop := ∀ d ∈ depth, n ≤ d

/-- The word is the word of some response: a kind and a cause of R100 and R101, and every other bit 0 (U12). -/
def isResponseWord (w : ResponseWord) : Bool := (decodeResponse w).isSome

/-- The invariant: a legal configuration (R6), both memories in canonical form and inside their space (R50, R51),
both queues within their depth, the response queue holding only response words the unit may produce (R38, R100, U12), and
both queues empty in reset (R250). -/
structure State.Inv (s : State) : Prop where
  legal : s.params.Legal
  gfxWf : s.gfx.Wf
  palWf : s.pal.Wf
  gfxInside : ∀ c ∈ s.gfx, c.1 < 32 * s.params.gfxTiles
  palInside : ∀ c ∈ s.pal, c.1 < 4 * s.params.palEntries
  commandsFit : WithinDepth s.params.cmdDepth s.commands.length
  responsesFit : WithinDepth s.params.rspDepth s.responses.length
  responsesLegal : ∀ w ∈ s.responses, isResponseWord w = true
  resetEmpty : s.inReset = true → s.commands = [] ∧ s.responses = []

end Sys2Proof.Machine
end

