-- ==== Sys2Proof/Certificates/Slice0/Obligations.lean ====
section
/-! DEFINITION. The statements for the provers. Each docstring names the rule of spec/ it formalises. -/

open Sys2Proof Sys2Proof.Machine

/-! ### Encoding -/

/-- R82, R84, R92: the decoder reads back every well-formed command from its word, with every operand at every value. -/
def Obligations.DecodeOfEncodeIsTheCommand : Prop :=
  ∀ i : Instr, i.wellFormed = true → decodeWord (encode i) = .ok i

/-- R82, R84, R92: a word that decodes is the word of the command it decodes to, so no bit of it is dropped. -/
def Obligations.EncodeOfDecodeIsTheWord : Prop :=
  ∀ (w : CommandWord) (i : Instr), decodeWord w = .ok i → i.wellFormed = true ∧ encode i = w

/-- R92, R93, R94: the decoder accepts exactly the words that have the fixed bits of a row of the opcode map, and reads
the command of that row. -/
def Obligations.DecoderAcceptsExactlyTheOpcodeMap : Prop :=
  ∀ w : CommandWord,
    (∀ i, decodeWord w = .ok i → ∃ r ∈ opcodeTable, r.mnemonic = i.mnemonic ∧ r.matchesWord w = true) ∧
    (∀ r ∈ opcodeTable, r.matchesWord w = true → ∃ i, decodeWord w = .ok i ∧ i.mnemonic = r.mnemonic)

/-- Command words printed in the worked examples of files 40 to 47 decode to the commands they stand for. -/
def Obligations.WorkedExampleWordsDecode : Prop :=
  decodeWord 0x000000000168001800#72 = .ok (.decode 0 1 0x6800 0x1800) ∧
  decodeWord 0x01000000006C002C00#72 = .ok (.preview 0 0 0x6C00 0x2C00) ∧
  decodeWord 0x020000000048004800#72 = .ok (.debug 0 0 0x4800 0x4800) ∧
  decodeWord 0x030000000100010001#72 = .ok (.decodexy 0 1 1 1) ∧
  decodeWord 0x070302000100000000#72 = .ok (.place 3 0x0302 1 0 0) ∧
  decodeWord 0x100000000800FF0000#72 = .ok (.wrGfx 0 8 0x00FF0000) ∧
  decodeWord 0x1100000027FF11D827#72 = .ok (.wrPal 0 0x27 0xFF11D827) ∧
  decodeWord 0x120000000000E00100#72 = .ok (.wrRes 0 224 256)

/-- R93: a word whose opcode is 0x08 to 0x0F or 0x13 to 0xFF has no effect on state and its response is
FAULT(ILLEGAL_OP), whatever the body holds. -/
def Obligations.ReservedOpcodesAnswerIllegalOp : Prop :=
  ∀ (w : CommandWord) (s : State),
    (0x08 ≤ (w.extractLsb' 64 8).toNat ∧ (w.extractLsb' 64 8).toNat ≤ 0x0F) ∨ 0x13 ≤ (w.extractLsb' 64 8).toNat →
    execWord w s = .next (s.respond (.fault .illegalOp))

/-- R94: a write command with a must-be-zero bit set is illegal: it writes nothing, its response is FAULT(ILLEGAL_OP),
and its word matches no row of the opcode map; the other formats have no such bits. -/
def Obligations.MustBeZeroBitsAnswerIllegalOp : Prop :=
  (∀ (w : CommandWord) (s : State),
    (w.extractLsb' 64 8 = 0x10#8 ∧ w.extractLsb' 51 13 ≠ 0#13) ∨
    (w.extractLsb' 64 8 = 0x11#8 ∧ w.extractLsb' 44 20 ≠ 0#20) ∨
    (w.extractLsb' 64 8 = 0x12#8 ∧ w.extractLsb' 32 32 ≠ 0#32) →
    execWord w s = .next (s.respond (.fault .illegalOp)) ∧ ∀ r ∈ opcodeTable, r.matchesWord w = false) ∧
  (∀ w : CommandWord, (w.extractLsb' 64 8).toNat < 8 → ∃ i, decodeWord w = .ok i)

/-- R96: any 72-bit word is a command: it is executed as the command it decodes to, or it answers ILLEGAL_OP; either
way the unit goes on, with one response more. -/
def Obligations.EveryWordIsExecuted : Prop :=
  ∀ (w : CommandWord) (s : State),
    ((∃ i, decodeWord w = .ok i ∧ execWord w s = exec i s) ∨
      ((∃ e, decodeWord w = .error e) ∧ execWord w s = .next (s.respond (.fault .illegalOp)))) ∧
    ∃ t r, execWord w s = .next t ∧ t.responses = s.responses ++ [encodeResponse r]

/-! ### The step -/

/-- R8, R31, R38: with a legal configuration and room for a response, a step takes the oldest command word from the
queue and runs the command it decodes to. -/
def Obligations.StepRunsTheDecodedCommand : Prop :=
  ∀ (s : State) (w : CommandWord) (rest : List CommandWord) (i : Instr),
    s.params.Legal → s.responseRoom = true → s.commands = w :: rest → decodeWord w = .ok i →
    step s = exec i { s with commands := rest }

/-- R235, R256: with no command the unit is idle, and with no room for a response it stops executing; all state is
kept. -/
def Obligations.StepWaitsWithAllStateKept : Prop :=
  ∀ s : State, s.params.Legal →
    (s.commands = [] → step s = .next s) ∧ (s.responseRoom = false → step s = .next s)

/-- R223: no command is stuck: in a legal configuration a step always answers a next state. In any other it is refused:
for parameters outside R6 as U13 and U14 say; for a queue depth of 0, which U16 excludes ("at least 1 each") without
saying what becomes of it, the refusal is the model's choice (logs 2 and 7). -/
def Obligations.StepIsNeverStuck : Prop :=
  ∀ s : State, (s.params.Legal → ∃ t, step s = .next t) ∧
    (¬ s.params.Legal → step s = .refused .illegalConfiguration)

/-- R31, R38, R80: a step that has a command and room takes exactly the oldest command and appends exactly one
response, which is a word the unit may produce. -/
def Obligations.StepAnswersTheOldestCommand : Prop :=
  ∀ (s : State) (w : CommandWord) (rest : List CommandWord),
    s.params.Legal → s.responseRoom = true → s.commands = w :: rest →
    ∃ t r, step s = .next t ∧ t.commands = rest ∧ t.responses = s.responses ++ [encodeResponse r] ∧
      t.accepted = s.accepted ∧ t.params = s.params

/-- R31, R58, R80: with room for the responses of all the commands, of which there is one each, `k` steps do what
executing the first `k` command words in order does, for every `k` up to the number of commands: the rest is still
queued, and response `k` of the list is the one that command `k` appends, after the responses already there. The response
queue may have any depth that has the room (U16). -/
def Obligations.DrainAnswersEveryCommandOnce : Prop :=
  ∀ s : State, s.params.Legal → (∀ d ∈ s.params.rspDepth, s.responses.length + s.commands.length ≤ d) →
    ∃ rs : List Response, rs.length = s.commands.length ∧
      ∀ k, k ≤ s.commands.length →
        ∃ u : State, execWords (s.commands.take k) (s.withCommands []) = .next u ∧
          Sys2Proof.core.run k s = .next (u.withCommands (s.commands.drop k)) ∧ u.commands = [] ∧
          u.responses = s.responses ++ (rs.take k).map encodeResponse

/-! ### Responses -/

/-- R100: the fields of every response word; every bit not named for its kind is 0. -/
def Obligations.ResponseWordLayout : Prop :=
  ∀ r : Response,
    (encodeResponse r).extractLsb' 104 16 = 0#16 ∧
    match r with
    | .color c => (encodeResponse r).extractLsb' 120 8 = 0x00#8 ∧ (encodeResponse r).extractLsb' 0 32 = c ∧
        (encodeResponse r).extractLsb' 32 72 = 0#72
    | .discard => (encodeResponse r).extractLsb' 120 8 = 0x10#8 ∧ (encodeResponse r).extractLsb' 0 104 = 0#104
    | .position numX numY outU outV tileId paf =>
        (encodeResponse r).extractLsb' 120 8 = 0x20#8 ∧ (encodeResponse r).extractLsb' 0 20 = numX ∧
        (encodeResponse r).extractLsb' 20 20 = numY ∧ (encodeResponse r).extractLsb' 40 16 = outU ∧
        (encodeResponse r).extractLsb' 56 16 = outV ∧ (encodeResponse r).extractLsb' 72 16 = tileId ∧
        (encodeResponse r).extractLsb' 88 16 = paf
    | .ack => (encodeResponse r).extractLsb' 120 8 = 0x30#8 ∧ (encodeResponse r).extractLsb' 0 104 = 0#104
    | .fault c => (encodeResponse r).extractLsb' 124 4 = 0xF#4 ∧ (encodeResponse r).extractLsb' 120 4 = causeCode c ∧
        (1 ≤ (causeCode c).toNat ∧ (causeCode c).toNat ≤ 6) ∧ (encodeResponse r).extractLsb' 0 104 = 0#104

/-- R100, R101: the host reads back from a response word the response the unit gave, so two different responses never
share a word. -/
def Obligations.ResponseIsReadBack : Prop := ∀ r : Response, decodeResponse (encodeResponse r) = some r

/-- R101: the six FAULT words. -/
def Obligations.FaultWordsOfTheSixCauses : Prop :=
  encodeResponse (.fault .illegalOp) = 0xF1000000000000000000000000000000#128 ∧
  encodeResponse (.fault .coordRange) = 0xF2000000000000000000000000000000#128 ∧
  encodeResponse (.fault .tileRange) = 0xF3000000000000000000000000000000#128 ∧
  encodeResponse (.fault .palRange) = 0xF4000000000000000000000000000000#128 ∧
  encodeResponse (.fault .resZero) = 0xF5000000000000000000000000000000#128 ∧
  encodeResponse (.fault .wrRange) = 0xF6000000000000000000000000000000#128

/-- R238: a response word has the kind FAULT exactly when the response is a fault. -/
def Obligations.FaultWordsAreTheFaults : Prop :=
  ∀ r : Response, isFaultWord (encodeResponse r) = true ↔ ∃ c, r = .fault c

/-! ### uv_to_tile_coord -/

/-- R144: a coordinate is returned exactly on the legal domain, where it is `U[14:12]` and `(0x8000 - V)[14:12]`;
elsewhere the function faults. -/
def Obligations.UvCoordinateOnTheLegalDomain : Prop :=
  ∀ u v : Field,
    ((∃ p, uvToTileCoord u v = .ok p) ↔ u.toNat ≤ 0x7FFF ∧ 1 ≤ v.toNat ∧ v.toNat ≤ 0x8000) ∧
    (u.toNat ≤ 0x7FFF ∧ 1 ≤ v.toNat ∧ v.toNat ≤ 0x8000 →
      uvToTileCoord u v = .ok (u.extractLsb' 12 3, (0x8000#16 - v).extractLsb' 12 3)) ∧
    (¬ (u.toNat ≤ 0x7FFF ∧ 1 ≤ v.toNat ∧ v.toNat ≤ 0x8000) → uvToTileCoord u v = .error .coordRange)

/-- R141: the coordinate is `floor(uv.x * 8)` and `floor((1 - uv.y) * 8)` of the rationals the fields denote, with the
vertical flip. -/
def Obligations.UvCoordinateIsTheFloor : Prop :=
  ∀ (u v : Field) (p : PixelCoord), uvToTileCoord u v = .ok p →
    (p.1.toNat : ℤ) = ⌊((u.toNat : ℚ) / 32768) * 8⌋ ∧ (p.2.toNat : ℤ) = ⌊(1 - (v.toNat : ℚ) / 32768) * 8⌋

/-- R191: the preview index is `floor(uv.x*16) + floor((1-uv.y)*16)*16` of the rationals the fields denote. -/
def Obligations.PreviewIndexIsTheFloor : Prop :=
  ∀ (u v : Field) (idx : Nat), uvToPreviewIndex u v = .ok idx →
    (idx : ℤ) = ⌊((u.toNat : ℚ) / 32768) * 16⌋ + ⌊(1 - (v.toNat : ℚ) / 32768) * 16⌋ * 16

/-! ### The bitplane unpacker -/

/-- R152: the line of scanline `py` is the low half of word `py >> 1` for an even scanline and its high half for an odd
one; seen from the record it is bits `[16*py + 15 : 16*py]`. -/
def Obligations.LineIsTheScanlineSlice : Prop :=
  ∀ (part : Record) (py : BitVec 3),
    recordLine part py = part.extractLsb' (16 * py.toNat) 16 ∧
    recordLine part py =
      if py.toNat % 2 = 0 then (part.extractLsb' (32 * (py.toNat / 2)) 32).extractLsb' 0 16
      else (part.extractLsb' (32 * (py.toNat / 2)) 32).extractLsb' 16 16

/-- R153: the four bits of the colour index, from bits `7 - px` and `15 - px` of the two lines. -/
def Obligations.IndexBitsComeFromTheTwoLines : Prop :=
  ∀ (part1 part2 : Record) (px py : BitVec 3),
    (unpack part1 part2 px py).getLsbD 0 = (recordLine part1 py).getLsbD (7 - px.toNat) ∧
    (unpack part1 part2 px py).getLsbD 1 = (recordLine part1 py).getLsbD (15 - px.toNat) ∧
    (unpack part1 part2 px py).getLsbD 2 = (recordLine part2 py).getLsbD (7 - px.toNat) ∧
    (unpack part1 part2 px py).getLsbD 3 = (recordLine part2 py).getLsbD (15 - px.toNat)

/-- R155: bit `p` of the index of pixel (`px`, `py`) is bit `128*(p >> 1) + 16*py + 8*(p & 1) + (7 - px)` of the tile;
in word `py >> 1` of record `p >> 1` it is bit `16*(py & 1) + 8*(p & 1) + 7 - px`; in the byte view of the memory it is
bit `7 - px` of byte `16*(p >> 1) + 2*py + (p & 1)` of the tile's 32 bytes. -/
def Obligations.EveryTileBitHasItsMeaning : Prop :=
  (∀ (T : BitVec 256) (px py : BitVec 3) (p : Nat), p < 4 →
    (unpack (T.extractLsb' 0 128) (T.extractLsb' 128 128) px py).getLsbD p =
      T.getLsbD (128 * (p / 2) + 16 * py.toNat + 8 * (p % 2) + (7 - px.toNat))) ∧
  (∀ (s : State) (t : Nat) (px py : BitVec 3) (p : Nat), p < 4 →
    (unpack (s.gfxRecord (2 * t)) (s.gfxRecord (2 * t + 1)) px py).getLsbD p =
        (s.gfxWord (4 * (2 * t + p / 2) + py.toNat / 2)).getLsbD (16 * (py.toNat % 2) + 8 * (p % 2) + (7 - px.toNat)) ∧
    (unpack (s.gfxRecord (2 * t)) (s.gfxRecord (2 * t + 1)) px py).getLsbD p =
        (s.gfxByte (32 * t + 16 * (p / 2) + 2 * py.toNat + p % 2)).getLsbD (7 - px.toNat))

/-- R156: every assignment of a 4-bit index to each of the 64 pixels is the decode of exactly one 256-bit tile. -/
def Obligations.EveryPixelTableIsExactlyOneTile : Prop :=
  ∀ idx : BitVec 3 → BitVec 3 → ColorIndex,
    ∃! T : BitVec 256, ∀ px py, unpack (T.extractLsb' 0 128) (T.extractLsb' 128 128) px py = idx py px

/-- R157 (b), (c), (d): the index is 0 where the four bits are 0, and everywhere in an all-zero tile; the two single-bit
tiles of (d), bit 7 and bit 0 of `line1` of scanline 0, light exactly the leftmost and the rightmost pixel of scanline 0.
And so for each of the 256 bits (R155): the tile whose only set bit is bit `n` has at its one pixel the index whose one set
bit is the bitplane of bit `n`, and the index 0 at the other 63. -/
def Obligations.ZeroAndSingleBitTiles : Prop :=
  (∀ (part1 part2 : Record) (px py : BitVec 3),
    (recordLine part1 py).getLsbD (7 - px.toNat) = false → (recordLine part1 py).getLsbD (15 - px.toNat) = false →
    (recordLine part2 py).getLsbD (7 - px.toNat) = false → (recordLine part2 py).getLsbD (15 - px.toNat) = false →
    unpack part1 part2 px py = 0#4) ∧
  (∀ px py : BitVec 3, unpack 0#128 0#128 px py = 0#4) ∧
  (∀ px py : BitVec 3, unpack 0x80#128 0#128 px py = if px = 0#3 ∧ py = 0#3 then 1#4 else 0#4) ∧
  (∀ px py : BitVec 3, unpack 0x01#128 0#128 px py = if px = 7#3 ∧ py = 0#3 then 1#4 else 0#4) ∧
  (∀ n, n < 256 → ∀ px py : BitVec 3,
    unpack ((BitVec.ofNat 256 (2 ^ n)).extractLsb' 0 128) ((BitVec.ofNat 256 (2 ^ n)).extractLsb' 128 128) px py =
      if px.toNat = 7 - n % 8 ∧ py.toNat = n / 16 % 8 then BitVec.ofNat 4 (2 ^ (2 * (n / 128) + n / 8 % 2)) else 0#4)

/-- R172: the palette offset is the bank times 16, and the palette address is exactly the 12-bit concatenation of the
bank and the index. -/
def Obligations.PaletteAddressIsBankAndIndex : Prop :=
  ∀ (paf : Field) (index : ColorIndex),
    paletteOffsetOf paf = (paf &&& 0xFF#16).toNat * 16 ∧ paletteOffsetOf paf = (paf.extractLsb' 0 8).toNat * 16 ∧
    index.toNat + paletteOffsetOf paf = (paf.extractLsb' 0 8 ++ index : BitVec 12).toNat ∧
    index.toNat + paletteOffsetOf paf ≤ 4095

/-! ### The commands: what each does, on all operands -/

/-- R180: DECODE (format X, `op` 0x00). On a legal coordinate and a tile in range, the index of the pixel is discarded
when 0 and else resolved to the entry at `index + (paf & 0xFF) * 16`; the faults are COORD_RANGE, TILE_RANGE, PAL_RANGE
in that order. -/
def Obligations.DecodeResolvesThePixelUnderUv : Prop :=
  ∀ (s : State) (paf tileId v u : Field) (px py : BitVec 3) (index : ColorIndex) (addr : Nat),
    px.toNat = u.toNat / 4096 % 8 → py.toNat = (0x8000 - v.toNat) / 4096 % 8 →
    index = unpack (s.gfxRecord (2 * tileId.toNat)) (s.gfxRecord (2 * tileId.toNat + 1)) px py →
    addr = index.toNat + paf.toNat % 256 * 16 →
    decodeWord (0x00#8 ++ paf ++ tileId ++ v ++ u) = .ok (.decode paf tileId v u) ∧
    (u.toNat < 0x8000 ∧ 0 < v.toNat ∧ v.toNat ≤ 0x8000 → tileId.toNat < s.params.gfxTiles → index ≠ 0#4 →
      addr < s.params.palEntries →
      exec (.decode paf tileId v u) s = .next (s.respond (.color (s.palEntry addr)))) ∧
    (u.toNat < 0x8000 ∧ 0 < v.toNat ∧ v.toNat ≤ 0x8000 → tileId.toNat < s.params.gfxTiles → index = 0#4 →
      exec (.decode paf tileId v u) s = .next (s.respond .discard)) ∧
    (¬ (u.toNat < 0x8000 ∧ 0 < v.toNat ∧ v.toNat ≤ 0x8000) →
      exec (.decode paf tileId v u) s = .next (s.respond (.fault .coordRange))) ∧
    (u.toNat < 0x8000 ∧ 0 < v.toNat ∧ v.toNat ≤ 0x8000 → s.params.gfxTiles ≤ tileId.toNat →
      exec (.decode paf tileId v u) s = .next (s.respond (.fault .tileRange))) ∧
    (u.toNat < 0x8000 ∧ 0 < v.toNat ∧ v.toNat ≤ 0x8000 → tileId.toNat < s.params.gfxTiles → index ≠ 0#4 →
      s.params.palEntries ≤ addr →
      exec (.decode paf tileId v u) s = .next (s.respond (.fault .palRange)))

/-- R181: DECODEXY (format C, `op` 0x03). The same with the coordinate given: `px = X`, `py = Y`, each at most 7. -/
def Obligations.DecodexyResolvesTheGivenPixel : Prop :=
  ∀ (s : State) (paf tileId y x : Field) (px py : BitVec 3) (index : ColorIndex) (addr : Nat),
    px.toNat = x.toNat % 8 → py.toNat = y.toNat % 8 →
    index = unpack (s.gfxRecord (2 * tileId.toNat)) (s.gfxRecord (2 * tileId.toNat + 1)) px py →
    addr = index.toNat + paf.toNat % 256 * 16 →
    decodeWord (0x03#8 ++ paf ++ tileId ++ y ++ x) = .ok (.decodexy paf tileId y x) ∧
    (x.toNat ≤ 7 ∧ y.toNat ≤ 7 → tileId.toNat < s.params.gfxTiles → index ≠ 0#4 → addr < s.params.palEntries →
      exec (.decodexy paf tileId y x) s = .next (s.respond (.color (s.palEntry addr)))) ∧
    (x.toNat ≤ 7 ∧ y.toNat ≤ 7 → tileId.toNat < s.params.gfxTiles → index = 0#4 →
      exec (.decodexy paf tileId y x) s = .next (s.respond .discard)) ∧
    (7 < x.toNat ∨ 7 < y.toNat →
      exec (.decodexy paf tileId y x) s = .next (s.respond (.fault .coordRange))) ∧
    (x.toNat ≤ 7 ∧ y.toNat ≤ 7 → s.params.gfxTiles ≤ tileId.toNat →
      exec (.decodexy paf tileId y x) s = .next (s.respond (.fault .tileRange))) ∧
    (x.toNat ≤ 7 ∧ y.toNat ≤ 7 → tileId.toNat < s.params.gfxTiles → index ≠ 0#4 → s.params.palEntries ≤ addr →
      exec (.decodexy paf tileId y x) s = .next (s.respond (.fault .palRange)))

/-- R200: DEBUG (format X, `op` 0x02). The pixel under UV of tile 0x14, resolved with the palette offset 0x50. -/
def Obligations.DebugResolvesTheFixedTile : Prop :=
  ∀ (s : State) (paf tileId v u : Field) (px py : BitVec 3) (index : ColorIndex),
    px.toNat = u.toNat / 4096 % 8 → py.toNat = (0x8000 - v.toNat) / 4096 % 8 →
    index = unpack (s.gfxRecord 0x28) (s.gfxRecord 0x29) px py →
    decodeWord (0x02#8 ++ paf ++ tileId ++ v ++ u) = .ok (.debug paf tileId v u) ∧
    (u.toNat < 0x8000 ∧ 0 < v.toNat ∧ v.toNat ≤ 0x8000 → 20 < s.params.gfxTiles → index ≠ 0#4 →
      index.toNat + 0x50 < s.params.palEntries →
      exec (.debug paf tileId v u) s = .next (s.respond (.color (s.palEntry (index.toNat + 0x50))))) ∧
    (u.toNat < 0x8000 ∧ 0 < v.toNat ∧ v.toNat ≤ 0x8000 → 20 < s.params.gfxTiles → index = 0#4 →
      exec (.debug paf tileId v u) s = .next (s.respond .discard)) ∧
    (¬ (u.toNat < 0x8000 ∧ 0 < v.toNat ∧ v.toNat ≤ 0x8000) →
      exec (.debug paf tileId v u) s = .next (s.respond (.fault .coordRange))) ∧
    (u.toNat < 0x8000 ∧ 0 < v.toNat ∧ v.toNat ≤ 0x8000 → s.params.gfxTiles ≤ 20 →
      exec (.debug paf tileId v u) s = .next (s.respond (.fault .tileRange))) ∧
    (u.toNat < 0x8000 ∧ 0 < v.toNat ∧ v.toNat ≤ 0x8000 → 20 < s.params.gfxTiles → index ≠ 0#4 →
      s.params.palEntries ≤ index.toNat + 0x50 →
      exec (.debug paf tileId v u) s = .next (s.respond (.fault .palRange)))

/-- R190: PREVIEW (format X, `op` 0x01). The entry of the 16×16 grid under the point, with no transparency; COORD_RANGE
off the grid, then PAL_RANGE in a palette too small. -/
def Obligations.PreviewAnswersTheGridEntry : Prop :=
  ∀ (s : State) (paf tileId v u : Field) (idx : Nat),
    idx = u.toNat / 2048 + (0x8000 - v.toNat) / 2048 * 16 →
    decodeWord (0x01#8 ++ paf ++ tileId ++ v ++ u) = .ok (.preview paf tileId v u) ∧
    (u.toNat < 0x8000 ∧ 0 < v.toNat ∧ v.toNat ≤ 0x8000 → idx < s.params.palEntries →
      exec (.preview paf tileId v u) s = .next (s.respond (.color (s.palEntry idx)))) ∧
    (¬ (u.toNat < 0x8000 ∧ 0 < v.toNat ∧ v.toNat ≤ 0x8000) →
      exec (.preview paf tileId v u) s = .next (s.respond (.fault .coordRange))) ∧
    (u.toNat < 0x8000 ∧ 0 < v.toNat ∧ v.toNat ≤ 0x8000 → s.params.palEntries ≤ idx →
      exec (.preview paf tileId v u) s = .next (s.respond (.fault .palRange)))

/-- R120: PLACE (format G, `op` 0x04 + `corner`). With a resolution that is not 0, the position of the corner with the
exact numerators, `local_uv` and the payload unchanged; else RES_ZERO. -/
def Obligations.PlaceAnswersThePosition : Prop :=
  ∀ (s : State) (corner : BitVec 2) (paf tileId gridY gridX : Field) (lx ly : Nat),
    lx = (corner.getLsbD 0).toNat → ly = (corner.getLsbD 1).toNat →
    decodeWord (0b000001#6 ++ corner ++ paf ++ tileId ++ gridY ++ gridX) = .ok (.place corner paf tileId gridY gridX) ∧
    (s.resX ≠ 0#16 → s.resY ≠ 0#16 →
      exec (.place corner paf tileId gridY gridX) s =
        .next (s.respond (.position
          (BitVec.ofInt 20 (4 * (8 * (lx : ℤ) + gridX.toInt) - (s.resX.toNat : ℤ)))
          (BitVec.ofInt 20 (4 * (8 * (ly : ℤ) - gridY.toInt - 8) + (s.resY.toNat : ℤ)))
          (BitVec.ofNat 16 (0x8000 * lx)) (BitVec.ofNat 16 (0x8000 * ly)) tileId paf))) ∧
    (s.resX = 0#16 ∨ s.resY = 0#16 →
      exec (.place corner paf tileId gridY gridX) s = .next (s.respond (.fault .resZero)))

/-- R210: WR_GFX (format W, `op` 0x10). Exactly the 32 bits `GFX[waddr >> 2].w[waddr & 3]` are written; a must-be-zero
bit is ILLEGAL_OP, then a record outside graphics memory is WR_RANGE, and either writes nothing. -/
def Obligations.WrGfxWritesOneWord : Prop :=
  ∀ (s : State) (mbz : BitVec 13) (waddr : BitVec 19) (data : Word),
    decodeWord (0x10#8 ++ 0#13 ++ waddr ++ data) = .ok (.wrGfx 0 waddr data) ∧
    (mbz = 0#13 → waddr.toNat / 4 < 2 * s.params.gfxTiles →
      ∃ t, exec (.wrGfx mbz waddr data) s = .next t ∧ t.responses = s.responses ++ [encodeResponse .ack] ∧
        (∀ r k, k < 4 → (t.gfxRecord r).extractLsb' (32 * k) 32 =
          if r = waddr.toNat / 4 ∧ k = waddr.toNat % 4 then data else (s.gfxRecord r).extractLsb' (32 * k) 32) ∧
        t.pal = s.pal ∧ t.resX = s.resX ∧ t.resY = s.resY) ∧
    (mbz ≠ 0#13 → exec (.wrGfx mbz waddr data) s = .next (s.respond (.fault .illegalOp))) ∧
    (mbz = 0#13 → 2 * s.params.gfxTiles ≤ waddr.toNat / 4 →
      exec (.wrGfx mbz waddr data) s = .next (s.respond (.fault .wrRange)))

/-- R211: WR_PAL (format W, `op` 0x11). Exactly the entry `PAL[paddr]` is written; a must-be-zero bit is ILLEGAL_OP,
then an address outside the palette is WR_RANGE, and either writes nothing. -/
def Obligations.WrPalWritesOneEntry : Prop :=
  ∀ (s : State) (mbz : BitVec 20) (paddr : BitVec 12) (color : Word),
    decodeWord (0x11#8 ++ 0#20 ++ paddr ++ color) = .ok (.wrPal 0 paddr color) ∧
    (mbz = 0#20 → paddr.toNat < s.params.palEntries →
      ∃ t, exec (.wrPal mbz paddr color) s = .next t ∧ t.responses = s.responses ++ [encodeResponse .ack] ∧
        (∀ i, t.palEntry i = if i = paddr.toNat then color else s.palEntry i) ∧
        t.gfx = s.gfx ∧ t.resX = s.resX ∧ t.resY = s.resY) ∧
    (mbz ≠ 0#20 → exec (.wrPal mbz paddr color) s = .next (s.respond (.fault .illegalOp))) ∧
    (mbz = 0#20 → s.params.palEntries ≤ paddr.toNat →
      exec (.wrPal mbz paddr color) s = .next (s.respond (.fault .wrRange)))

/-- R212: WR_RES (format W, `op` 0x12). Both registers are written together, zero included; a must-be-zero bit is
ILLEGAL_OP and writes nothing. -/
def Obligations.WrResWritesBothRegisters : Prop :=
  ∀ (s : State) (mbz : BitVec 32) (resY resX : Field),
    decodeWord (0x12#8 ++ 0#32 ++ resY ++ resX) = .ok (.wrRes 0 resY resX) ∧
    (mbz = 0#32 →
      ∃ t, exec (.wrRes mbz resY resX) s = .next t ∧ t.responses = s.responses ++ [encodeResponse .ack] ∧
        t.resX = resX ∧ t.resY = resY ∧ t.gfx = s.gfx ∧ t.pal = s.pal) ∧
    (mbz ≠ 0#32 → exec (.wrRes mbz resY resX) s = .next (s.respond (.fault .illegalOp)))

/-! ### Frames -/

/-- R32, R39: DECODE, DECODEXY, PREVIEW, DEBUG and PLACE write no state: both registers, the queue of commands, the
counter and every byte of both memories are unchanged, and the response queue grows by one word. -/
def Obligations.PixelAndPlaceCommandsWriteNoState : Prop :=
  ∀ (i : Instr) (s t : State),
    (match i with
      | .wrGfx _ _ _ => False
      | .wrPal _ _ _ => False
      | .wrRes _ _ _ => False
      | _ => True) →
    exec i s = .next t →
    (∀ a, t.gfxByte a = s.gfxByte a) ∧ (∀ a, t.palByte a = s.palByte a) ∧
    t.resX = s.resX ∧ t.resY = s.resY ∧ t.resWritten = s.resWritten ∧ t.params = s.params ∧
    t.commands = s.commands ∧ t.accepted = s.accepted ∧ t.inReset = s.inReset ∧ t.epoch = s.epoch ∧
    ∃ r, t.responses = s.responses ++ [encodeResponse r]

/-- R39, R56, R210: WR_GFX stores only to the four bytes of the word its address names; the palette, both registers,
the queue of commands and the counter are unchanged. -/
def Obligations.WrGfxChangesOnlyItsWord : Prop :=
  ∀ (mbz : BitVec 13) (waddr : BitVec 19) (data : Word) (s t : State),
    exec (.wrGfx mbz waddr data) s = .next t →
    (∀ a, a < 4 * (4 * recordOfWaddr waddr + wordOfWaddr waddr) ∨
        4 * (4 * recordOfWaddr waddr + wordOfWaddr waddr) + 4 ≤ a → t.gfxByte a = s.gfxByte a) ∧
    (∀ a, t.palByte a = s.palByte a) ∧
    t.resX = s.resX ∧ t.resY = s.resY ∧ t.resWritten = s.resWritten ∧ t.params = s.params ∧
    t.commands = s.commands ∧ t.accepted = s.accepted ∧ t.inReset = s.inReset ∧ t.epoch = s.epoch ∧
    ∃ r, t.responses = s.responses ++ [encodeResponse r]

/-- R39, R56, R211: WR_PAL stores only to the four bytes of the entry its address names; graphics memory, both
registers, the queue of commands and the counter are unchanged. -/
def Obligations.WrPalChangesOnlyItsEntry : Prop :=
  ∀ (mbz : BitVec 20) (paddr : BitVec 12) (color : Word) (s t : State),
    exec (.wrPal mbz paddr color) s = .next t →
    (∀ a, a < 4 * paddr.toNat ∨ 4 * paddr.toNat + 4 ≤ a → t.palByte a = s.palByte a) ∧
    (∀ a, t.gfxByte a = s.gfxByte a) ∧
    t.resX = s.resX ∧ t.resY = s.resY ∧ t.resWritten = s.resWritten ∧ t.params = s.params ∧
    t.commands = s.commands ∧ t.accepted = s.accepted ∧ t.inReset = s.inReset ∧ t.epoch = s.epoch ∧
    ∃ r, t.responses = s.responses ++ [encodeResponse r]

/-- R39, R212: WR_RES stores to no memory; every byte, the queue of commands and the counter are unchanged. -/
def Obligations.WrResChangesNoMemory : Prop :=
  ∀ (mbz : BitVec 32) (resY resX : Field) (s t : State),
    exec (.wrRes mbz resY resX) s = .next t →
    (∀ a, t.gfxByte a = s.gfxByte a) ∧ (∀ a, t.palByte a = s.palByte a) ∧ t.params = s.params ∧
    t.commands = s.commands ∧ t.accepted = s.accepted ∧ t.inReset = s.inReset ∧ t.epoch = s.epoch ∧
    ∃ r, t.responses = s.responses ++ [encodeResponse r]

/-! ### Faults -/

/-- R224: a command whose response is a FAULT changes nothing else: the memories, both registers, the queue of commands
and the counter are as they were. -/
def Obligations.FaultingCommandChangesNothing : Prop :=
  ∀ (i : Instr) (s t : State) (c : Cause), exec i s = .next t →
    t.responses = s.responses ++ [encodeResponse (.fault c)] → t = s.respond (.fault c)

/-- R227: which command can raise which cause. -/
def Obligations.CausesEachCommandCanRaise : Prop :=
  ∀ (i : Instr) (s t : State) (c : Cause), exec i s = .next t →
    t.responses = s.responses ++ [encodeResponse (.fault c)] →
    match i with
    | .place _ _ _ _ _ => c = .resZero
    | .decode _ _ _ _ => c = .coordRange ∨ c = .tileRange ∨ c = .palRange
    | .decodexy _ _ _ _ => c = .coordRange ∨ c = .tileRange ∨ c = .palRange
    | .preview _ _ _ _ => c = .coordRange ∨ (c = .palRange ∧ s.params.palEntries < 256)
    | .debug _ _ _ _ => c = .coordRange ∨ (c = .tileRange ∧ s.params.gfxTiles ≤ 20) ∨
        (c = .palRange ∧ s.params.palEntries ≤ 0x5F)
    | .wrGfx mbz _ _ => (c = .illegalOp ∧ mbz ≠ 0#13) ∨ c = .wrRange
    | .wrPal mbz _ _ => (c = .illegalOp ∧ mbz ≠ 0#20) ∨ c = .wrRange
    | .wrRes mbz _ _ => c = .illegalOp ∧ mbz ≠ 0#32

/-! ### Relations between commands -/

/-- R182: on the legal domain DECODE and the DECODEXY of `U >> 12` and `(0x8000 - V) >> 12` give the same response. -/
def Obligations.DecodeAgreesWithDecodexy : Prop :=
  ∀ (s : State) (paf tileId v u : Field), u.toNat ≤ 0x7FFF → 1 ≤ v.toNat → v.toNat ≤ 0x8000 →
    exec (.decode paf tileId v u) s = exec (.decodexy paf tileId ((0x8000#16 - v) >>> 12) (u >>> 12)) s

/-- R201: in every state DEBUG gives the response of DECODE with tile 0x14 and `paf` 0x0005, whatever the fields it
ignores hold. -/
def Obligations.DebugIsDecodeOfTheFixedTile : Prop :=
  ∀ (s : State) (paf tileId v u : Field), exec (.debug paf tileId v u) s = exec (.decode 0x0005 0x0014 v u) s

/-- R194: the centre of cell (`r`, `c`) of the preview answers `PAL[c + 16*r]`, in a palette that holds it. -/
def Obligations.PreviewOfACellCentre : Prop :=
  ∀ (s : State) (paf tileId : Field) (r c : Nat), r < 16 → c < 16 → c + 16 * r < s.params.palEntries →
    exec (.preview paf tileId (BitVec.ofNat 16 (0x8000 - (2 * r + 1) * 0x400)) (BitVec.ofNat 16 ((2 * c + 1) * 0x400))) s
      = .next (s.respond (.color (s.palEntry (c + 16 * r))))

/-- R184 (a): a tile whose eight words are 0 is transparent at every legal coordinate for every `paf`, banks out of
range included. -/
def Obligations.ZeroTileIsTransparentForEveryBank : Prop :=
  ∀ (s : State) (paf tileId v u y x : Field), tileId.toNat < s.params.gfxTiles →
    (∀ j < 8, s.gfxWord (8 * tileId.toNat + j) = 0#32) →
    (u.toNat ≤ 0x7FFF → 1 ≤ v.toNat → v.toNat ≤ 0x8000 →
      exec (.decode paf tileId v u) s = .next (s.respond .discard)) ∧
    (x.toNat ≤ 7 → y.toNat ≤ 7 → exec (.decodexy paf tileId y x) s = .next (s.respond .discard))

/-- R95: PREVIEW and DEBUG do not depend on `tile_id` and `paf`, and DECODE and DECODEXY not on `paf[15:8]`. -/
def Obligations.IgnoredFieldsHaveNoEffect : Prop :=
  ∀ (s : State) (paf paf' tileId tileId' v u : Field),
    exec (.preview paf tileId v u) s = exec (.preview paf' tileId' v u) s ∧
    exec (.debug paf tileId v u) s = exec (.debug paf' tileId' v u) s ∧
    (paf.extractLsb' 0 8 = paf'.extractLsb' 0 8 →
      exec (.decode paf tileId v u) s = exec (.decode paf' tileId v u) s ∧
      exec (.decodexy paf tileId v u) s = exec (.decodexy paf' tileId v u) s)

/-- R183: the response of DECODE and DECODEXY depends only on the command, the eight words of its tile and the one
palette entry it addresses: two states that agree on these give the same response, whatever else they hold. -/
def Obligations.PixelDependsOnlyOnItsTileAndEntry : Prop :=
  ∀ (s₁ s₂ : State) (paf tileId v u y x : Field),
    s₁.params.gfxTiles = s₂.params.gfxTiles → s₁.params.palEntries = s₂.params.palEntries →
    (∀ j < 8, s₁.gfxWord (8 * tileId.toNat + j) = s₂.gfxWord (8 * tileId.toNat + j)) →
    ((∀ px py : BitVec 3, px.toNat = u.toNat / 4096 % 8 → py.toNat = (0x8000 - v.toNat) / 4096 % 8 →
        let addr := (unpack (s₁.gfxRecord (2 * tileId.toNat)) (s₁.gfxRecord (2 * tileId.toNat + 1)) px py).toNat +
          paf.toNat % 256 * 16
        s₁.palEntry addr = s₂.palEntry addr) →
      ∃ r, exec (.decode paf tileId v u) s₁ = .next (s₁.respond r) ∧
        exec (.decode paf tileId v u) s₂ = .next (s₂.respond r)) ∧
    ((∀ px py : BitVec 3, px.toNat = x.toNat % 8 → py.toNat = y.toNat % 8 →
        let addr := (unpack (s₁.gfxRecord (2 * tileId.toNat)) (s₁.gfxRecord (2 * tileId.toNat + 1)) px py).toNat +
          paf.toNat % 256 * 16
        s₁.palEntry addr = s₂.palEntry addr) →
      ∃ r, exec (.decodexy paf tileId y x) s₁ = .next (s₁.respond r) ∧
        exec (.decodexy paf tileId y x) s₂ = .next (s₂.respond r))

/-- R58 (b): two commands that are no write command give the same two responses in either order. -/
def Obligations.PixelCommandsCommute : Prop :=
  ∀ (i j : Instr) (s : State),
    (∀ k ∈ [i, j], match k with
      | .wrGfx _ _ _ => False
      | .wrPal _ _ _ => False
      | .wrRes _ _ _ => False
      | _ => True) →
    ∃ ri rj, exec i s = .next (s.respond ri) ∧ exec j (s.respond ri) = .next ((s.respond ri).respond rj) ∧
      exec j s = .next (s.respond rj) ∧ exec i (s.respond rj) = .next ((s.respond rj).respond ri)

/-- R60, R213: the colour a WR_PAL writes is what the next PREVIEW of its cell answers, with nothing in between. -/
def Obligations.PreviewReadsBackWrPal : Prop :=
  ∀ (s t : State) (paddr : BitVec 12) (color : Word) (paf tileId : Field),
    paddr.toNat < 256 → paddr.toNat < s.params.palEntries → exec (.wrPal 0 paddr color) s = .next t →
    exec (.preview paf tileId (BitVec.ofNat 16 (0x8000 - (2 * (paddr.toNat / 16) + 1) * 0x400))
        (BitVec.ofNat 16 ((2 * (paddr.toNat % 16) + 1) * 0x400))) t = .next (t.respond (.color color))

/-- R103: the eight commands of `WR_TILE` load the tile: its eight words are those given, every other word of graphics
memory is unchanged, and each command is acknowledged. -/
def Obligations.WrTileLoadsTheTile : Prop :=
  ∀ (s : State) (tileId : Field) (words : Vector Word 8), tileId.toNat < s.params.gfxTiles →
    ∃ t, execAll (wrTile tileId words) s = .next t ∧
      (∀ j : Fin 8, t.gfxWord (8 * tileId.toNat + j.val) = words[j]) ∧
      (∀ wa, wa / 8 ≠ tileId.toNat → t.gfxWord wa = s.gfxWord wa) ∧
      t.responses = s.responses ++ List.replicate 8 (encodeResponse .ack)

/-! ### Placement arithmetic -/

/-- R124: over all legal inputs the numerators lie in the stated ranges, and their 20-bit fields hold them exactly. -/
def Obligations.PlacementNumeratorsAreExact : Prop :=
  ∀ (resX resY : Field) (corner : BitVec 2) (gridX gridY : Field), resX ≠ 0#16 → resY ≠ 0#16 →
    (-196607 ≤ placeNumX resX corner gridX ∧ placeNumX resX corner gridX ≤ 131099) ∧
    (-131099 ≤ placeNumY resY corner gridY ∧ placeNumY resY corner gridY ≤ 196607) ∧
    (BitVec.ofInt 20 (placeNumX resX corner gridX)).toInt = placeNumX resX corner gridX ∧
    (BitVec.ofInt 20 (placeNumY resY corner gridY)).toInt = placeNumY resY corner gridY

/-- R129: (a) the quad spans 32 units from `4*gx` and from `-4*gy - 32`; (b) at grid (0, 0) its top-left corner is the
scaled position (0, 0); (c), (d) a grid step moves it by 4, down for `grid_y`; (e) each numerator depends on one corner
bit only. -/
def Obligations.PlacedQuadGeometry : Prop :=
  (∀ (corner : BitVec 2) (gridX gridY : Field),
    4 * placeX corner gridX = 4 * gridX.toInt + 32 * ((corner.getLsbD 0).toNat : ℤ) ∧
    4 * placeY corner gridY = -4 * gridY.toInt - 32 + 32 * ((corner.getLsbD 1).toNat : ℤ)) ∧
  (4 * placeX 2#2 0#16 = 0 ∧ 4 * placeY 2#2 0#16 = 0) ∧
  (∀ (resX resY : Field) (corner : BitVec 2) (g g' : Field),
    placeNumX resX corner g' - placeNumX resX corner g = 4 * (g'.toInt - g.toInt) ∧
    placeNumY resY corner g' - placeNumY resY corner g = -4 * (g'.toInt - g.toInt)) ∧
  (∀ (resX resY : Field) (c c' : BitVec 2) (g : Field),
    (c.getLsbD 0 = c'.getLsbD 0 → placeNumX resX c g = placeNumX resX c' g) ∧
    (c.getLsbD 1 = c'.getLsbD 1 → placeNumY resY c g = placeNumY resY c' g))

/-! ### Reset, the host and the invariant -/

/-- R40, R250: driving `rst_n` low, in any state, puts the unit in reset: both queues are emptied, the command counter is
0, and nothing counts as written in either memory or in the resolution registers. Until the reset ends no command is
accepted and no response is offered; ending it changes nothing else. The state the machine starts from is one after a
reset has ended. That a reset is two events, and that a written location does not keep its value through it, is the model's
reading of R250 (log 5). -/
def Obligations.ResetEmptiesTheQueues : Prop :=
  (State.reset.commands = [] ∧ State.reset.responses = [] ∧ State.reset.accepted = 0 ∧ State.reset.inReset = false ∧
    State.reset.gfx = [] ∧ State.reset.pal = [] ∧ State.reset.resWritten = false) ∧
  (∀ s : State, s.assertReset.commands = [] ∧ s.assertReset.responses = [] ∧ s.assertReset.accepted = 0 ∧
    s.assertReset.inReset = true ∧ s.assertReset.params = s.params ∧
    s.assertReset.gfx = [] ∧ s.assertReset.pal = [] ∧ s.assertReset.resWritten = false) ∧
  (∀ s : State, s.releaseReset = { s with inReset := false } ∧ s.resetPulse = s.assertReset.releaseReset ∧
    s.resetPulse.inReset = false) ∧
  (∀ (s : State) (w : CommandWord), s.inReset = true →
    s.cmdReady = false ∧ s.accept w = s ∧ s.rspValid = false ∧ s.take = none)

/-- R31, R38, R80, R250, R256: a command is accepted exactly while `cmd_ready` is high; it joins the end of the queue with
the number the command counter holds, and nothing else changes. A response is there to take exactly while `rsp_valid` is
high; it is the oldest, and taking it changes nothing else. `cmd_ready` is high exactly out of reset with room in the
command queue, and `rsp_valid` exactly out of reset with a response in the queue: that neither is low at another time is
the model's choice (log 15), since R80 does not specify it. -/
def Obligations.HostHandshake : Prop :=
  ∀ (s : State) (w : CommandWord),
    (s.cmdReady = true ↔ s.inReset = false ∧ ∀ d ∈ s.params.cmdDepth, s.commands.length < d) ∧
    (s.rspValid = true ↔ s.inReset = false ∧ s.responses ≠ []) ∧
    (s.cmdReady = true →
      s.accept w = { s with commands := s.commands ++ [w], accepted := s.accepted + 1 }) ∧
    (s.cmdReady = false → s.accept w = s) ∧
    (s.take = none ↔ s.rspValid = false) ∧
    (∀ (r : ResponseWord) (t : State), s.take = some (r, t) → s.responses = r :: t.responses ∧
      t = { s with responses := t.responses })

/-- The invariant holds right after reset, for every legal configuration; `State.reset`'s own parameters and register
values are the model's choice (logs 2 and 4), and the invariant does not rest on the registers. -/
def Obligations.ResetMeetsTheInvariant : Prop :=
  State.reset.Inv ∧ ∀ p : Params, p.Legal → (State.resetWith p).Inv

/-- R38, R50, R51, R100, R223: from every state that meets the invariant (a legal configuration, both memories in
canonical form and inside their space, both queues within their depth and empty in reset, only legal response words), a
step gives a state that meets it. -/
def Obligations.StepKeepsTheInvariant : Prop :=
  ∀ s t : State, s.Inv → step s = .next t → t.Inv

/-- R80, R250: the host's actions (offer a command, take a response, begin and end a reset) keep the invariant too, so
it holds of every state the unit can be in. -/
def Obligations.HostActionsKeepTheInvariant : Prop :=
  ∀ s : State, s.Inv → (∀ w, (s.accept w).Inv) ∧ (∀ r t, s.take = some (r, t) → t.Inv) ∧
    s.assertReset.Inv ∧ s.releaseReset.Inv ∧ s.resetPulse.Inv

/-- A command that meets the model's boot test does not depend on the unspecified contents: with the free values of the
memories taken from any other epoch, and the resolution registers holding any other values where no WR_RES has written
them, it does the same. It formalises what R222, R252 and U6 say of a command that reads only written locations, on two
choices of the model: `bootMet` asks for the locations the command reads and not for the whole bank nor for a resolution
that is not 0, as R252's table does (log 9), and the unspecified bytes are free values indexed by the epoch (log 3). -/
def Obligations.BootedCommandIgnoresUnspecifiedContents : Prop :=
  ∀ (i : Instr) (s t : State) (e : Nat) (x y : Field), s.bootMet i = true → exec i s = .next t →
    exec i (s.withUnspecified e x y) = .next (t.withUnspecified e x y)
end

