-- ==== Sys2Proof/Laws/Memory.lean ====
section
/-! SUPPORT. The laws of a memory: a read after a write, the canonical form, and the space a write stays inside. -/

namespace Sys2Proof.Machine

/-! ### Read after write -/

theorem Memory.byte?_putByte (m : Memory) (a : Nat) (v : Byte) (b : Nat) :
    (m.putByte a v).byte? b = if b = a then some v else m.byte? b := by
  induction m with
  | nil => simp [Memory.putByte, Memory.byte?, eq_comm]
  | cons c m ih =>
    obtain ⟨x, y⟩ := c
    simp only [Memory.putByte]
    split
    · simp only [Memory.byte?, eq_comm]
    · split
      · subst_vars
        simp only [Memory.byte?, eq_comm]
        split <;> rfl
      · simp only [Memory.byte?, ih]
        split <;> split <;> first | rfl | omega

/-- A word write, read back one byte at a time: its four bytes hold the word, every other byte is unchanged. -/
theorem Memory.byte?_putWord (m : Memory) (wa : Nat) (v : Word) (b : Nat) :
    (m.putWord wa v).byte? b =
      if b / 4 = wa then some (v.extractLsb' (8 * (b % 4)) 8) else m.byte? b := by
  simp only [Memory.putWord, Memory.byte?_putByte]
  by_cases h : b / 4 = wa
  · have hb : b = 4 * wa ∨ b = 4 * wa + 1 ∨ b = 4 * wa + 2 ∨ b = 4 * wa + 3 := by omega
    rcases hb with rfl | rfl | rfl | rfl
    · have h1 : 4 * wa % 4 = 0 := by omega
      simp [h1]
    · have h1 : (4 * wa + 1) % 4 = 1 := by omega
      have h2 : (4 * wa + 1) / 4 = wa := by omega
      simp [h1, h2]
    · have h1 : (4 * wa + 2) % 4 = 2 := by omega
      have h2 : (4 * wa + 2) / 4 = wa := by omega
      simp [h1, h2]
    · have h1 : (4 * wa + 3) % 4 = 3 := by omega
      have h2 : (4 * wa + 3) / 4 = wa := by omega
      simp [h1, h2]
  · rw [if_neg (by omega), if_neg (by omega), if_neg (by omega), if_neg (by omega), if_neg h]

/-! ### The canonical form -/

theorem Memory.mem_putByte {m : Memory} {a : Nat} {v : Byte} {c : Host.Cell} (h : c ∈ m.putByte a v) :
    c = (a, v) ∨ c ∈ m := by
  induction m with
  | nil => simpa [Memory.putByte] using h
  | cons d m ih =>
    obtain ⟨x, y⟩ := d
    simp only [Memory.putByte] at h
    split at h
    · simpa using h
    · split at h
      · rcases List.mem_cons.1 h with h | h
        · exact .inl h
        · exact .inr (List.mem_cons_of_mem _ h)
      · rcases List.mem_cons.1 h with h | h
        · exact .inr (h ▸ List.mem_cons_self)
        · exact (ih h).imp id (List.mem_cons_of_mem _)

/-- Writing a byte keeps the canonical form. -/
theorem Memory.putByte_wf {m : Memory} (h : m.Wf) (a : Nat) (v : Byte) : (m.putByte a v).Wf := by
  induction m with
  | nil => exact List.pairwise_singleton _ _
  | cons d m ih =>
    obtain ⟨x, y⟩ := d
    obtain ⟨hx, hm⟩ := List.pairwise_cons.1 h
    simp only [Memory.putByte]
    split
    case isTrue hlt =>
      refine List.pairwise_cons.2 ⟨fun c hc => ?_, h⟩
      rcases List.mem_cons.1 hc with rfl | hc
      · exact hlt
      · exact lt_trans hlt (hx c hc)
    case isFalse hge =>
      split
      case isTrue heq => exact List.pairwise_cons.2 ⟨fun c hc => heq ▸ hx c hc, hm⟩
      case isFalse hne =>
        refine List.pairwise_cons.2 ⟨fun c hc => ?_, ih hm⟩
        rcases Memory.mem_putByte hc with rfl | hc
        · exact lt_of_le_of_ne (not_lt.1 hge) (Ne.symm hne)
        · exact hx c hc

/-- Writing a word keeps the canonical form. -/
theorem Memory.putWord_wf {m : Memory} (h : m.Wf) (wa : Nat) (v : Word) : (m.putWord wa v).Wf :=
  Memory.putByte_wf (Memory.putByte_wf (Memory.putByte_wf (Memory.putByte_wf h _ _) _ _) _ _) _ _

/-- What a word write lists is one of its four bytes or was listed before. -/
theorem Memory.mem_putWord {m : Memory} {wa : Nat} {v : Word} {c : Host.Cell} (h : c ∈ m.putWord wa v) :
    c.1 / 4 = wa ∨ c ∈ m := by
  unfold Memory.putWord at h
  rcases Memory.mem_putByte h with rfl | h
  · left; dsimp only; omega
  rcases Memory.mem_putByte h with rfl | h
  · left; dsimp only; omega
  rcases Memory.mem_putByte h with rfl | h
  · left; dsimp only; omega
  rcases Memory.mem_putByte h with rfl | h
  · left; dsimp only; omega
  exact .inr h

/-- A word that has been written is written. -/
theorem Memory.wordWritten_putWord (m : Memory) (wa : Nat) (v : Word) : (m.putWord wa v).wordWritten wa = true := by
  have h0 : 4 * wa / 4 = wa := by omega
  have h1 : (4 * wa + 1) / 4 = wa := by omega
  have h2 : (4 * wa + 2) / 4 = wa := by omega
  have h3 : (4 * wa + 3) / 4 = wa := by omega
  simp [Memory.wordWritten, Memory.byte?_putWord, h1, h2, h3]

end Sys2Proof.Machine
end

