-- ==== Sys2Proof/Laws/State.lean ====
section
/-! SUPPORT. One lemma per field per update of the state, so that no proof unfolds a record update. -/

namespace Sys2Proof.Machine

/-! ### `State.respond` -/

@[simp] theorem State.respond_params (s : State) (r : Response) : (s.respond r).params = s.params := rfl
@[simp] theorem State.respond_gfx (s : State) (r : Response) : (s.respond r).gfx = s.gfx := rfl
@[simp] theorem State.respond_pal (s : State) (r : Response) : (s.respond r).pal = s.pal := rfl
@[simp] theorem State.respond_resX (s : State) (r : Response) : (s.respond r).resX = s.resX := rfl
@[simp] theorem State.respond_resY (s : State) (r : Response) : (s.respond r).resY = s.resY := rfl
@[simp] theorem State.respond_resWritten (s : State) (r : Response) : (s.respond r).resWritten = s.resWritten := rfl
@[simp] theorem State.respond_commands (s : State) (r : Response) : (s.respond r).commands = s.commands := rfl
@[simp] theorem State.respond_responses (s : State) (r : Response) : (s.respond r).responses =
    s.responses ++ [encodeResponse r] := rfl
@[simp] theorem State.respond_accepted (s : State) (r : Response) : (s.respond r).accepted = s.accepted := rfl
@[simp] theorem State.respond_epoch (s : State) (r : Response) : (s.respond r).epoch = s.epoch := rfl
@[simp] theorem State.respond_inReset (s : State) (r : Response) : (s.respond r).inReset = s.inReset := rfl

/-! ### `State.raise` -/

@[simp] theorem State.raise_params (s : State) (c : Cause) : (s.raise c).params = s.params := rfl
@[simp] theorem State.raise_gfx (s : State) (c : Cause) : (s.raise c).gfx = s.gfx := rfl
@[simp] theorem State.raise_pal (s : State) (c : Cause) : (s.raise c).pal = s.pal := rfl
@[simp] theorem State.raise_resX (s : State) (c : Cause) : (s.raise c).resX = s.resX := rfl
@[simp] theorem State.raise_resY (s : State) (c : Cause) : (s.raise c).resY = s.resY := rfl
@[simp] theorem State.raise_resWritten (s : State) (c : Cause) : (s.raise c).resWritten = s.resWritten := rfl
@[simp] theorem State.raise_commands (s : State) (c : Cause) : (s.raise c).commands = s.commands := rfl
@[simp] theorem State.raise_responses (s : State) (c : Cause) : (s.raise c).responses =
    s.responses ++ [encodeResponse (.fault c)] := rfl
@[simp] theorem State.raise_accepted (s : State) (c : Cause) : (s.raise c).accepted = s.accepted := rfl
@[simp] theorem State.raise_epoch (s : State) (c : Cause) : (s.raise c).epoch = s.epoch := rfl
@[simp] theorem State.raise_inReset (s : State) (c : Cause) : (s.raise c).inReset = s.inReset := rfl

/-! ### `State.writeGfx` -/

@[simp] theorem State.writeGfx_params (s : State) (r k : Nat) (v : Word) : (s.writeGfx r k v).params = s.params := rfl
@[simp] theorem State.writeGfx_gfx (s : State) (r k : Nat) (v : Word) : (s.writeGfx r k v).gfx =
    s.gfx.putWord (4 * r + k) v := rfl
@[simp] theorem State.writeGfx_pal (s : State) (r k : Nat) (v : Word) : (s.writeGfx r k v).pal = s.pal := rfl
@[simp] theorem State.writeGfx_resX (s : State) (r k : Nat) (v : Word) : (s.writeGfx r k v).resX = s.resX := rfl
@[simp] theorem State.writeGfx_resY (s : State) (r k : Nat) (v : Word) : (s.writeGfx r k v).resY = s.resY := rfl
@[simp] theorem State.writeGfx_resWritten (s : State) (r k : Nat) (v : Word) : (s.writeGfx r k v).resWritten =
    s.resWritten := rfl
@[simp] theorem State.writeGfx_commands (s : State) (r k : Nat) (v : Word) : (s.writeGfx r k v).commands =
    s.commands := rfl
@[simp] theorem State.writeGfx_responses (s : State) (r k : Nat) (v : Word) : (s.writeGfx r k v).responses =
    s.responses := rfl
@[simp] theorem State.writeGfx_accepted (s : State) (r k : Nat) (v : Word) : (s.writeGfx r k v).accepted =
    s.accepted := rfl
@[simp] theorem State.writeGfx_epoch (s : State) (r k : Nat) (v : Word) : (s.writeGfx r k v).epoch = s.epoch := rfl
@[simp] theorem State.writeGfx_inReset (s : State) (r k : Nat) (v : Word) : (s.writeGfx r k v).inReset = s.inReset := rfl

/-! ### `State.writePal` -/

@[simp] theorem State.writePal_params (s : State) (i : Nat) (v : Word) : (s.writePal i v).params = s.params := rfl
@[simp] theorem State.writePal_gfx (s : State) (i : Nat) (v : Word) : (s.writePal i v).gfx = s.gfx := rfl
@[simp] theorem State.writePal_pal (s : State) (i : Nat) (v : Word) : (s.writePal i v).pal = s.pal.putWord i v := rfl
@[simp] theorem State.writePal_resX (s : State) (i : Nat) (v : Word) : (s.writePal i v).resX = s.resX := rfl
@[simp] theorem State.writePal_resY (s : State) (i : Nat) (v : Word) : (s.writePal i v).resY = s.resY := rfl
@[simp] theorem State.writePal_resWritten (s : State) (i : Nat) (v : Word) : (s.writePal i v).resWritten =
    s.resWritten := rfl
@[simp] theorem State.writePal_commands (s : State) (i : Nat) (v : Word) : (s.writePal i v).commands =
    s.commands := rfl
@[simp] theorem State.writePal_responses (s : State) (i : Nat) (v : Word) : (s.writePal i v).responses =
    s.responses := rfl
@[simp] theorem State.writePal_accepted (s : State) (i : Nat) (v : Word) : (s.writePal i v).accepted =
    s.accepted := rfl
@[simp] theorem State.writePal_epoch (s : State) (i : Nat) (v : Word) : (s.writePal i v).epoch = s.epoch := rfl
@[simp] theorem State.writePal_inReset (s : State) (i : Nat) (v : Word) : (s.writePal i v).inReset = s.inReset := rfl

/-! ### `State.writeRes` -/

@[simp] theorem State.writeRes_params (s : State) (x y : Field) : (s.writeRes x y).params = s.params := rfl
@[simp] theorem State.writeRes_gfx (s : State) (x y : Field) : (s.writeRes x y).gfx = s.gfx := rfl
@[simp] theorem State.writeRes_pal (s : State) (x y : Field) : (s.writeRes x y).pal = s.pal := rfl
@[simp] theorem State.writeRes_resX (s : State) (x y : Field) : (s.writeRes x y).resX = x := rfl
@[simp] theorem State.writeRes_resY (s : State) (x y : Field) : (s.writeRes x y).resY = y := rfl
@[simp] theorem State.writeRes_resWritten (s : State) (x y : Field) : (s.writeRes x y).resWritten = true := rfl
@[simp] theorem State.writeRes_commands (s : State) (x y : Field) : (s.writeRes x y).commands = s.commands := rfl
@[simp] theorem State.writeRes_responses (s : State) (x y : Field) : (s.writeRes x y).responses = s.responses := rfl
@[simp] theorem State.writeRes_accepted (s : State) (x y : Field) : (s.writeRes x y).accepted = s.accepted := rfl
@[simp] theorem State.writeRes_epoch (s : State) (x y : Field) : (s.writeRes x y).epoch = s.epoch := rfl
@[simp] theorem State.writeRes_inReset (s : State) (x y : Field) : (s.writeRes x y).inReset = s.inReset := rfl

/-! ### `State.withCommands` -/

@[simp] theorem State.withCommands_params (s : State) (q : List CommandWord) : (s.withCommands q).params =
    s.params := rfl
@[simp] theorem State.withCommands_gfx (s : State) (q : List CommandWord) : (s.withCommands q).gfx = s.gfx := rfl
@[simp] theorem State.withCommands_pal (s : State) (q : List CommandWord) : (s.withCommands q).pal = s.pal := rfl
@[simp] theorem State.withCommands_resX (s : State) (q : List CommandWord) : (s.withCommands q).resX = s.resX := rfl
@[simp] theorem State.withCommands_resY (s : State) (q : List CommandWord) : (s.withCommands q).resY = s.resY := rfl
@[simp] theorem State.withCommands_resWritten (s : State) (q : List CommandWord) : (s.withCommands q).resWritten =
    s.resWritten := rfl
@[simp] theorem State.withCommands_commands (s : State) (q : List CommandWord) : (s.withCommands q).commands =
    q := rfl
@[simp] theorem State.withCommands_responses (s : State) (q : List CommandWord) : (s.withCommands q).responses =
    s.responses := rfl
@[simp] theorem State.withCommands_accepted (s : State) (q : List CommandWord) : (s.withCommands q).accepted =
    s.accepted := rfl
@[simp] theorem State.withCommands_epoch (s : State) (q : List CommandWord) : (s.withCommands q).epoch =
    s.epoch := rfl
@[simp] theorem State.withCommands_inReset (s : State) (q : List CommandWord) : (s.withCommands q).inReset =
    s.inReset := rfl

/-! ### `State.offer` -/

@[simp] theorem State.offer_params (s : State) (w : CommandWord) : (s.offer w).params = s.params := rfl
@[simp] theorem State.offer_gfx (s : State) (w : CommandWord) : (s.offer w).gfx = s.gfx := rfl
@[simp] theorem State.offer_pal (s : State) (w : CommandWord) : (s.offer w).pal = s.pal := rfl
@[simp] theorem State.offer_resX (s : State) (w : CommandWord) : (s.offer w).resX = s.resX := rfl
@[simp] theorem State.offer_resY (s : State) (w : CommandWord) : (s.offer w).resY = s.resY := rfl
@[simp] theorem State.offer_resWritten (s : State) (w : CommandWord) : (s.offer w).resWritten = s.resWritten := rfl
@[simp] theorem State.offer_commands (s : State) (w : CommandWord) : (s.offer w).commands =
    w :: s.commands.tail := rfl
@[simp] theorem State.offer_responses (s : State) (w : CommandWord) : (s.offer w).responses =
    if s.responseRoom then s.responses else [] := rfl
@[simp] theorem State.offer_accepted (s : State) (w : CommandWord) : (s.offer w).accepted = s.accepted := rfl
@[simp] theorem State.offer_epoch (s : State) (w : CommandWord) : (s.offer w).epoch = s.epoch := rfl
@[simp] theorem State.offer_inReset (s : State) (w : CommandWord) : (s.offer w).inReset = s.inReset := rfl

/-! ### `State.assertReset` -/

@[simp] theorem State.assertReset_params (s : State) : s.assertReset.params = s.params := rfl
@[simp] theorem State.assertReset_gfx (s : State) : s.assertReset.gfx = [] := rfl
@[simp] theorem State.assertReset_pal (s : State) : s.assertReset.pal = [] := rfl
@[simp] theorem State.assertReset_resX (s : State) : s.assertReset.resX = Config.unspecifiedResX (s.epoch + 1) := rfl
@[simp] theorem State.assertReset_resY (s : State) : s.assertReset.resY = Config.unspecifiedResY (s.epoch + 1) := rfl
@[simp] theorem State.assertReset_resWritten (s : State) : s.assertReset.resWritten = false := rfl
@[simp] theorem State.assertReset_commands (s : State) : s.assertReset.commands = [] := rfl
@[simp] theorem State.assertReset_responses (s : State) : s.assertReset.responses = [] := rfl
@[simp] theorem State.assertReset_accepted (s : State) : s.assertReset.accepted = 0 := rfl
@[simp] theorem State.assertReset_epoch (s : State) : s.assertReset.epoch = s.epoch + 1 := rfl
@[simp] theorem State.assertReset_inReset (s : State) : s.assertReset.inReset = true := rfl

/-! ### `State.releaseReset` -/

@[simp] theorem State.releaseReset_params (s : State) : s.releaseReset.params = s.params := rfl
@[simp] theorem State.releaseReset_gfx (s : State) : s.releaseReset.gfx = s.gfx := rfl
@[simp] theorem State.releaseReset_pal (s : State) : s.releaseReset.pal = s.pal := rfl
@[simp] theorem State.releaseReset_resX (s : State) : s.releaseReset.resX = s.resX := rfl
@[simp] theorem State.releaseReset_resY (s : State) : s.releaseReset.resY = s.resY := rfl
@[simp] theorem State.releaseReset_resWritten (s : State) : s.releaseReset.resWritten = s.resWritten := rfl
@[simp] theorem State.releaseReset_commands (s : State) : s.releaseReset.commands = s.commands := rfl
@[simp] theorem State.releaseReset_responses (s : State) : s.releaseReset.responses = s.responses := rfl
@[simp] theorem State.releaseReset_accepted (s : State) : s.releaseReset.accepted = s.accepted := rfl
@[simp] theorem State.releaseReset_epoch (s : State) : s.releaseReset.epoch = s.epoch := rfl
@[simp] theorem State.releaseReset_inReset (s : State) : s.releaseReset.inReset = false := rfl

/-! ### `State.resetPulse` -/

@[simp] theorem State.resetPulse_params (s : State) : s.resetPulse.params = s.params := rfl
@[simp] theorem State.resetPulse_gfx (s : State) : s.resetPulse.gfx = [] := rfl
@[simp] theorem State.resetPulse_pal (s : State) : s.resetPulse.pal = [] := rfl
@[simp] theorem State.resetPulse_resX (s : State) : s.resetPulse.resX = Config.unspecifiedResX (s.epoch + 1) := rfl
@[simp] theorem State.resetPulse_resY (s : State) : s.resetPulse.resY = Config.unspecifiedResY (s.epoch + 1) := rfl
@[simp] theorem State.resetPulse_resWritten (s : State) : s.resetPulse.resWritten = false := rfl
@[simp] theorem State.resetPulse_commands (s : State) : s.resetPulse.commands = [] := rfl
@[simp] theorem State.resetPulse_responses (s : State) : s.resetPulse.responses = [] := rfl
@[simp] theorem State.resetPulse_accepted (s : State) : s.resetPulse.accepted = 0 := rfl
@[simp] theorem State.resetPulse_epoch (s : State) : s.resetPulse.epoch = s.epoch + 1 := rfl
@[simp] theorem State.resetPulse_inReset (s : State) : s.resetPulse.inReset = false := rfl

/-! ### `State.conclude` -/

@[simp] theorem State.conclude_ok (s : State) (r : Response) : s.conclude (.ok r) = s.respond r := rfl
@[simp] theorem State.conclude_error (s : State) (c : Cause) : s.conclude (.error c) = s.raise c := rfl
@[simp] theorem State.conclude_params (s : State) (e : Except Cause Response) : (s.conclude e).params = s.params := by
  cases e <;> rfl
@[simp] theorem State.conclude_gfx (s : State) (e : Except Cause Response) : (s.conclude e).gfx = s.gfx := by
  cases e <;> rfl
@[simp] theorem State.conclude_pal (s : State) (e : Except Cause Response) : (s.conclude e).pal = s.pal := by
  cases e <;> rfl
@[simp] theorem State.conclude_resX (s : State) (e : Except Cause Response) : (s.conclude e).resX = s.resX := by
  cases e <;> rfl
@[simp] theorem State.conclude_resY (s : State) (e : Except Cause Response) : (s.conclude e).resY = s.resY := by
  cases e <;> rfl
@[simp] theorem State.conclude_resWritten (s : State) (e : Except Cause Response) : (s.conclude e).resWritten = s.resWritten := by
  cases e <;> rfl
@[simp] theorem State.conclude_commands (s : State) (e : Except Cause Response) : (s.conclude e).commands = s.commands := by
  cases e <;> rfl
@[simp] theorem State.conclude_accepted (s : State) (e : Except Cause Response) : (s.conclude e).accepted = s.accepted := by
  cases e <;> rfl
@[simp] theorem State.conclude_epoch (s : State) (e : Except Cause Response) : (s.conclude e).epoch = s.epoch := by
  cases e <;> rfl
@[simp] theorem State.conclude_inReset (s : State) (e : Except Cause Response) : (s.conclude e).inReset = s.inReset := by
  cases e <;> rfl

/-! ### `State.accept` -/

@[simp] theorem State.accept_params (s : State) (w : CommandWord) : (s.accept w).params = s.params := by
  unfold State.accept; split <;> rfl
@[simp] theorem State.accept_gfx (s : State) (w : CommandWord) : (s.accept w).gfx = s.gfx := by
  unfold State.accept; split <;> rfl
@[simp] theorem State.accept_pal (s : State) (w : CommandWord) : (s.accept w).pal = s.pal := by
  unfold State.accept; split <;> rfl
@[simp] theorem State.accept_resX (s : State) (w : CommandWord) : (s.accept w).resX = s.resX := by
  unfold State.accept; split <;> rfl
@[simp] theorem State.accept_resY (s : State) (w : CommandWord) : (s.accept w).resY = s.resY := by
  unfold State.accept; split <;> rfl
@[simp] theorem State.accept_resWritten (s : State) (w : CommandWord) : (s.accept w).resWritten = s.resWritten := by
  unfold State.accept; split <;> rfl
@[simp] theorem State.accept_responses (s : State) (w : CommandWord) : (s.accept w).responses = s.responses := by
  unfold State.accept; split <;> rfl
@[simp] theorem State.accept_epoch (s : State) (w : CommandWord) : (s.accept w).epoch = s.epoch := by
  unfold State.accept; split <;> rfl
@[simp] theorem State.accept_inReset (s : State) (w : CommandWord) : (s.accept w).inReset = s.inReset := by
  unfold State.accept; split <;> rfl

/-! ### `State.withUnspecified` -/

@[simp] theorem State.withUnspecified_params (s : State) (e : Nat) (x y : Field) :
    (s.withUnspecified e x y).params = s.params := rfl
@[simp] theorem State.withUnspecified_gfx (s : State) (e : Nat) (x y : Field) :
    (s.withUnspecified e x y).gfx = s.gfx := rfl
@[simp] theorem State.withUnspecified_pal (s : State) (e : Nat) (x y : Field) :
    (s.withUnspecified e x y).pal = s.pal := rfl
@[simp] theorem State.withUnspecified_resWritten (s : State) (e : Nat) (x y : Field) :
    (s.withUnspecified e x y).resWritten = s.resWritten := rfl
@[simp] theorem State.withUnspecified_commands (s : State) (e : Nat) (x y : Field) :
    (s.withUnspecified e x y).commands = s.commands := rfl
@[simp] theorem State.withUnspecified_responses (s : State) (e : Nat) (x y : Field) :
    (s.withUnspecified e x y).responses = s.responses := rfl
@[simp] theorem State.withUnspecified_accepted (s : State) (e : Nat) (x y : Field) :
    (s.withUnspecified e x y).accepted = s.accepted := rfl
@[simp] theorem State.withUnspecified_inReset (s : State) (e : Nat) (x y : Field) :
    (s.withUnspecified e x y).inReset = s.inReset := rfl
@[simp] theorem State.withUnspecified_epoch (s : State) (e : Nat) (x y : Field) :
    (s.withUnspecified e x y).epoch = e := rfl
theorem State.withUnspecified_resX (s : State) (e : Nat) (x y : Field) :
    (s.withUnspecified e x y).resX = if s.resWritten then s.resX else x := rfl
theorem State.withUnspecified_resY (s : State) (e : Nat) (x y : Field) :
    (s.withUnspecified e x y).resY = if s.resWritten then s.resY else y := rfl

/-! ### `State.take` -/

/-- A response is taken from the front of the queue, out of reset, and nothing else changes. -/
theorem State.take_eq_some {s t : State} {r : ResponseWord} (h : s.take = some (r, t)) :
    ∃ rest, s.responses = r :: rest ∧ s.inReset = false ∧ t = { s with responses := rest } := by
  unfold State.take at h
  split at h
  · cases h
  case h_2 r' rest hr =>
    split at h
    · cases h
    case isFalse hi =>
      obtain ⟨rfl, rfl⟩ := Prod.mk.inj (Option.some.inj h)
      exact ⟨rest, hr, Bool.not_eq_true _ ▸ hi, rfl⟩

end Sys2Proof.Machine
end

