-- ==== Sys2Proof/Laws/Ops.lean ====
section
/-! SUPPORT. One lemma per shared operation that says all it can do: the reads and writes of the two memories. -/

namespace Sys2Proof.Machine

/-! ### Four parts of a wide value -/

/-- The low, second, third and high byte of a word built from four bytes, and the word built from its bytes. -/
theorem word_of_bytes (v : Word) :
    v.extractLsb' 24 8 ++ v.extractLsb' 16 8 ++ v.extractLsb' 8 8 ++ v.extractLsb' 0 8 = v := by
  refine BitVec.eq_of_getLsbD_eq fun i hi => ?_
  simp only [BitVec.getLsbD_append, BitVec.getLsbD_extractLsb']
  grind

/-- Word `k` of a record built from four words (R34). -/
theorem record_word (w0 w1 w2 w3 : Word) :
    (w3 ++ w2 ++ w1 ++ w0 : Record).extractLsb' 0 32 = w0 ∧ (w3 ++ w2 ++ w1 ++ w0 : Record).extractLsb' 32 32 = w1 ∧
    (w3 ++ w2 ++ w1 ++ w0 : Record).extractLsb' 64 32 = w2 ∧ (w3 ++ w2 ++ w1 ++ w0 : Record).extractLsb' 96 32 = w3 := by
  refine ⟨?_, ?_, ?_, ?_⟩ <;> refine BitVec.eq_of_getLsbD_eq fun i hi => ?_ <;>
    simp only [BitVec.getLsbD_append, BitVec.getLsbD_extractLsb'] <;> grind

/-! ### Reads through an update that is not of their memory -/

@[simp] theorem State.gfxByte_respond (s : State) (r : Response) (a : Nat) :
    (s.respond r).gfxByte a = s.gfxByte a := rfl
@[simp] theorem State.palByte_respond (s : State) (r : Response) (a : Nat) :
    (s.respond r).palByte a = s.palByte a := rfl
@[simp] theorem State.gfxWord_respond (s : State) (r : Response) (a : Nat) :
    (s.respond r).gfxWord a = s.gfxWord a := rfl
@[simp] theorem State.gfxRecord_respond (s : State) (r : Response) (a : Nat) :
    (s.respond r).gfxRecord a = s.gfxRecord a := rfl
@[simp] theorem State.palEntry_respond (s : State) (r : Response) (i : Nat) :
    (s.respond r).palEntry i = s.palEntry i := rfl
@[simp] theorem State.gfxByte_writePal (s : State) (i : Nat) (v : Word) (a : Nat) :
    (s.writePal i v).gfxByte a = s.gfxByte a := rfl
@[simp] theorem State.palByte_writeGfx (s : State) (r k : Nat) (v : Word) (a : Nat) :
    (s.writeGfx r k v).palByte a = s.palByte a := rfl
@[simp] theorem State.palEntry_writeGfx (s : State) (r k : Nat) (v : Word) (i : Nat) :
    (s.writeGfx r k v).palEntry i = s.palEntry i := rfl
@[simp] theorem State.gfxByte_writeRes (s : State) (x y : Field) (a : Nat) :
    (s.writeRes x y).gfxByte a = s.gfxByte a := rfl
@[simp] theorem State.palByte_writeRes (s : State) (x y : Field) (a : Nat) :
    (s.writeRes x y).palByte a = s.palByte a := rfl

/-! ### Reads after a write -/

theorem State.gfxByte_writeGfx (s : State) (r k : Nat) (v : Word) (a : Nat) :
    (s.writeGfx r k v).gfxByte a = if a / 4 = 4 * r + k then v.extractLsb' (8 * (a % 4)) 8 else s.gfxByte a := by
  simp only [State.gfxByte, State.writeGfx_gfx, State.writeGfx_epoch, Memory.byte?_putWord]
  split <;> rfl

theorem State.palByte_writePal (s : State) (i : Nat) (v : Word) (a : Nat) :
    (s.writePal i v).palByte a = if a / 4 = i then v.extractLsb' (8 * (a % 4)) 8 else s.palByte a := by
  simp only [State.palByte, State.writePal_pal, State.writePal_epoch, Memory.byte?_putWord]
  split <;> rfl

/-- The four byte addresses of a word, and their places in it. -/
theorem byte_place (wa : Nat) :
    (4 * wa) / 4 = wa ∧ (4 * wa + 1) / 4 = wa ∧ (4 * wa + 2) / 4 = wa ∧ (4 * wa + 3) / 4 = wa ∧
    (4 * wa) % 4 = 0 ∧ (4 * wa + 1) % 4 = 1 ∧ (4 * wa + 2) % 4 = 2 ∧ (4 * wa + 3) % 4 = 3 := by omega

/-- A word of graphics memory after a WR_GFX write: the one written holds the data, every other is unchanged. -/
theorem State.gfxWord_writeGfx (s : State) (r k : Nat) (v : Word) (wa : Nat) :
    (s.writeGfx r k v).gfxWord wa = if wa = 4 * r + k then v else s.gfxWord wa := by
  obtain ⟨h0, h1, h2, h3, m0, m1, m2, m3⟩ := byte_place wa
  simp only [State.gfxWord, State.gfxByte_writeGfx, h0, h1, h2, h3, m0, m1, m2, m3]
  split
  · exact word_of_bytes v
  · rfl

/-- A palette entry after a WR_PAL write: the one written holds the colour, every other is unchanged. -/
theorem State.palEntry_writePal (s : State) (i : Nat) (v : Word) (j : Nat) :
    (s.writePal i v).palEntry j = if j = i then v else s.palEntry j := by
  obtain ⟨h0, h1, h2, h3, m0, m1, m2, m3⟩ := byte_place j
  simp only [State.palEntry, State.palByte_writePal, h0, h1, h2, h3, m0, m1, m2, m3]
  split
  · exact word_of_bytes v
  · rfl

end Sys2Proof.Machine
end

