-- ==== Sys2Proof/Laws/Commands.lean ====
section
/-! SUPPORT. One lemma per sub-block and per command that says all it can do, and the inversion of a step. -/

namespace Sys2Proof.Machine

/-! ### The sub-blocks -/

/-- `range_err` is low exactly on the legal domain of R144. -/
theorem rangeErr_eq_false_iff (u v : Field) :
    rangeErr u v = false ↔ u.toNat < 0x8000 ∧ 0 < v.toNat ∧ v.toNat ≤ 0x8000 := by
  have hu := u.isLt
  have hv := v.isLt
  simp only [rangeErr, uvAboveOne, gridColumn, gridRow, uvOne, tileSize, Nat.shiftRight_eq_div_pow, Bool.or_eq_false_iff,
    decide_eq_false_iff_not, beq_eq_false_iff_ne, ne_eq]
  omega

/-- The tile index is TILE_RANGE outside graphics memory and the unpacked index inside it. -/
theorem tileIndex_cases (s : State) (tileId : Nat) (p : PixelCoord) :
    (s.params.gfxTiles ≤ tileId ∧ tileIndex s tileId p = .error .tileRange) ∨
    (tileId < s.params.gfxTiles ∧
      tileIndex s tileId p = .ok (unpack (s.gfxRecord (tileId * 2)) (s.gfxRecord (tileId * 2 + 1)) p.1 p.2)) := by
  unfold tileIndex
  split
  case isTrue h => exact .inl ⟨h, rfl⟩
  case isFalse h => exact .inr ⟨not_le.1 h, rfl⟩

/-- The resolver discards index 0, faults outside the palette, and else answers the stored entry. -/
theorem resolve_cases (s : State) (index : ColorIndex) (offset : Nat) :
    (index = 0#4 ∧ resolve s index offset = .ok .discard) ∨
    (index ≠ 0#4 ∧ s.params.palEntries ≤ index.toNat + offset ∧ resolve s index offset = .error .palRange) ∨
    (index ≠ 0#4 ∧ index.toNat + offset < s.params.palEntries ∧
      resolve s index offset = .ok (.color (s.palEntry (index.toNat + offset)))) := by
  by_cases h : index = 0#4
  · exact .inl ⟨h, by simp [resolve, discardFlag, h]⟩
  · by_cases hp : s.params.palEntries ≤ index.toNat + offset
    · exact .inr (.inl ⟨h, hp, by simp [resolve, palRangeErr, discardFlag, h, hp]⟩)
    · exact .inr (.inr ⟨h, not_le.1 hp, by simp [resolve, palRangeErr, discardFlag, h, hp]⟩)

@[simp] theorem pixelResponse_error (s : State) (c : Cause) (tileId offset : Nat) :
    pixelResponse s (.error c) tileId offset = .error c := rfl

/-- With a coordinate, the pixel's response is that of the tile index followed by the resolver. -/
theorem pixelResponse_ok (s : State) (p : PixelCoord) (tileId offset : Nat) :
    pixelResponse s (.ok p) tileId offset =
      if s.params.gfxTiles ≤ tileId then .error .tileRange
      else resolve s (unpack (s.gfxRecord (tileId * 2)) (s.gfxRecord (tileId * 2 + 1)) p.1 p.2) offset := by
  rcases tileIndex_cases s tileId p with ⟨h, e⟩ | ⟨h, e⟩
  · simp only [pixelResponse, bind, Except.bind, e, if_pos h]
  · simp only [pixelResponse, bind, Except.bind, e, if_neg (not_le.2 h)]

/-! ### The commands -/

@[simp] theorem exec_decode (paf tileId v u : Field) (s : State) : exec (.decode paf tileId v u) s =
    .next (s.conclude (pixelResponse s (uvToTileCoord u v) tileId.toNat (paletteOffsetOf paf))) := rfl
@[simp] theorem exec_decodexy (paf tileId y x : Field) (s : State) : exec (.decodexy paf tileId y x) s =
    .next (s.conclude (pixelResponse s (xyToTileCoord x y) tileId.toNat (paletteOffsetOf paf))) := rfl
@[simp] theorem exec_debug (paf tileId v u : Field) (s : State) : exec (.debug paf tileId v u) s =
    .next (s.conclude (pixelResponse s (uvToTileCoord u v) debugTileId debugPalOffset)) := rfl
@[simp] theorem exec_preview (paf tileId v u : Field) (s : State) : exec (.preview paf tileId v u) s =
    .next (s.conclude (previewResponse s u v)) := rfl
@[simp] theorem exec_place (corner : BitVec 2) (paf tileId gridY gridX : Field) (s : State) :
    exec (.place corner paf tileId gridY gridX) s =
      .next (s.conclude (placeResponse s corner paf tileId gridY gridX)) := rfl

/-- Everything WR_GFX can do. -/
theorem exec_wrGfx_cases (mbz : BitVec 13) (waddr : BitVec 19) (data : Word) (s : State) :
    (mbz ≠ 0#13 ∧ exec (.wrGfx mbz waddr data) s = .next (s.raise .illegalOp)) ∨
    (mbz = 0#13 ∧ 2 * s.params.gfxTiles ≤ recordOfWaddr waddr ∧
      exec (.wrGfx mbz waddr data) s = .next (s.raise .wrRange)) ∨
    (mbz = 0#13 ∧ recordOfWaddr waddr < 2 * s.params.gfxTiles ∧ exec (.wrGfx mbz waddr data) s =
      .next ((s.writeGfx (recordOfWaddr waddr) (wordOfWaddr waddr) data).respond .ack)) := by
  by_cases h : mbz = 0#13
  · by_cases hr : 2 * s.params.gfxTiles ≤ recordOfWaddr waddr
    · exact .inr (.inl ⟨h, hr, by simp [exec, execWrGfx, h, hr]⟩)
    · exact .inr (.inr ⟨h, not_le.1 hr, by simp [exec, execWrGfx, h, hr]⟩)
  · exact .inl ⟨h, by simp [exec, execWrGfx, h]⟩

/-- Everything WR_PAL can do. -/
theorem exec_wrPal_cases (mbz : BitVec 20) (paddr : BitVec 12) (color : Word) (s : State) :
    (mbz ≠ 0#20 ∧ exec (.wrPal mbz paddr color) s = .next (s.raise .illegalOp)) ∨
    (mbz = 0#20 ∧ s.params.palEntries ≤ paddr.toNat ∧
      exec (.wrPal mbz paddr color) s = .next (s.raise .wrRange)) ∨
    (mbz = 0#20 ∧ paddr.toNat < s.params.palEntries ∧ exec (.wrPal mbz paddr color) s =
      .next ((s.writePal paddr.toNat color).respond .ack)) := by
  by_cases h : mbz = 0#20
  · by_cases hr : s.params.palEntries ≤ paddr.toNat
    · exact .inr (.inl ⟨h, hr, by simp [exec, execWrPal, h, hr]⟩)
    · exact .inr (.inr ⟨h, not_le.1 hr, by simp [exec, execWrPal, h, hr]⟩)
  · exact .inl ⟨h, by simp [exec, execWrPal, h]⟩

/-- Everything WR_RES can do. -/
theorem exec_wrRes_cases (mbz : BitVec 32) (resY resX : Field) (s : State) :
    (mbz ≠ 0#32 ∧ exec (.wrRes mbz resY resX) s = .next (s.raise .illegalOp)) ∨
    (mbz = 0#32 ∧ exec (.wrRes mbz resY resX) s = .next ((s.writeRes resX resY).respond .ack)) := by
  by_cases h : mbz = 0#32
  · exact .inr ⟨h, by simp [exec, execWrRes, h]⟩
  · exact .inl ⟨h, by simp [exec, execWrRes, h]⟩

/-- Everything a command can do: write at most one location of one memory, or both resolution registers, and append
its one response (R11, R39). -/
theorem exec_cases (i : Instr) (s : State) :
    ∃ t r, exec i s = .next (t.respond r) ∧
      (t = s ∨
        (∃ waddr data, recordOfWaddr waddr < 2 * s.params.gfxTiles ∧
          t = s.writeGfx (recordOfWaddr waddr) (wordOfWaddr waddr) data) ∨
        (∃ paddr color, paddr < s.params.palEntries ∧ t = s.writePal paddr color) ∨
        (∃ x y, t = s.writeRes x y)) := by
  have key : ∀ e : Except Cause Response, ∃ r, s.conclude e = s.respond r := by
    rintro (c | r)
    · exact ⟨.fault c, rfl⟩
    · exact ⟨r, rfl⟩
  cases i with
  | wrGfx mbz waddr data =>
    rcases exec_wrGfx_cases mbz waddr data s with ⟨_, h⟩ | ⟨_, _, h⟩ | ⟨_, hr, h⟩
    · exact ⟨s, _, h, .inl rfl⟩
    · exact ⟨s, _, h, .inl rfl⟩
    · exact ⟨_, _, h, .inr (.inl ⟨waddr, data, hr, rfl⟩)⟩
  | wrPal mbz paddr color =>
    rcases exec_wrPal_cases mbz paddr color s with ⟨_, h⟩ | ⟨_, _, h⟩ | ⟨_, hr, h⟩
    · exact ⟨s, _, h, .inl rfl⟩
    · exact ⟨s, _, h, .inl rfl⟩
    · exact ⟨_, _, h, .inr (.inr (.inl ⟨_, color, hr, rfl⟩))⟩
  | wrRes mbz resY resX =>
    rcases exec_wrRes_cases mbz resY resX s with ⟨_, h⟩ | ⟨_, h⟩
    · exact ⟨s, _, h, .inl rfl⟩
    · exact ⟨_, _, h, .inr (.inr (.inr ⟨_, _, rfl⟩))⟩
  | decode paf tileId v u => obtain ⟨r, h⟩ := key _; exact ⟨s, r, (exec_decode ..).trans (congrArg _ h), .inl rfl⟩
  | decodexy paf tileId y x => obtain ⟨r, h⟩ := key _; exact ⟨s, r, (exec_decodexy ..).trans (congrArg _ h), .inl rfl⟩
  | debug paf tileId v u => obtain ⟨r, h⟩ := key _; exact ⟨s, r, (exec_debug ..).trans (congrArg _ h), .inl rfl⟩
  | preview paf tileId v u => obtain ⟨r, h⟩ := key _; exact ⟨s, r, (exec_preview ..).trans (congrArg _ h), .inl rfl⟩
  | place corner paf tileId gridY gridX =>
    obtain ⟨r, h⟩ := key _; exact ⟨s, r, (exec_place ..).trans (congrArg _ h), .inl rfl⟩

/-- A command neither reads nor writes the queue of commands (R33). -/
theorem exec_withCommands (i : Instr) (s : State) (q : List CommandWord) :
    exec i (s.withCommands q) =
      match exec i s with
      | .next t => .next (t.withCommands q)
      | .fault f => .fault f
      | .refused r => .refused r := by
  have key : ∀ e : Except Cause Response, (s.withCommands q).conclude e = (s.conclude e).withCommands q := by
    rintro (c | r) <;> rfl
  cases i with
  | wrGfx mbz waddr data => simp only [exec, execWrGfx, apply_ite (State.withCommands · q)]; rfl
  | wrPal mbz paddr color => simp only [exec, execWrPal, apply_ite (State.withCommands · q)]; rfl
  | wrRes mbz resY resX => simp only [exec, execWrRes, apply_ite (State.withCommands · q)]; rfl
  | decode paf tileId v u => exact congrArg _ (key _)
  | decodexy paf tileId y x => exact congrArg _ (key _)
  | debug paf tileId v u => exact congrArg _ (key _)
  | preview paf tileId v u => exact congrArg _ (key _)
  | place corner paf tileId gridY gridX => exact congrArg _ (key _)

/-! ### The step -/

/-- The oldest command is taken, and nothing else changes. -/
theorem fetch_eq_some {s t : State} {w : CommandWord} (h : fetch s = some (w, t)) :
    ∃ rest, s.commands = w :: rest ∧ s.responseRoom = true ∧ t = s.withCommands rest := by
  unfold fetch at h
  split at h
  · cases h
  case h_2 w' rest hc =>
    split at h
    case isTrue hr =>
      obtain ⟨rfl, rfl⟩ := Prod.mk.inj (Option.some.inj h)
      exact ⟨rest, hc, hr, rfl⟩
    case isFalse => cases h

/-- Executing a word is executing the command it decodes to, or raising ILLEGAL_OP. -/
theorem execWord_cases (w : CommandWord) (s : State) :
    (∃ i, decodeWord w = .ok i ∧ execWord w s = exec i s) ∨
    (∃ e, decodeWord w = .error e ∧ execWord w s = .next (s.raise .illegalOp)) := by
  unfold execWord
  cases h : decodeWord w with
  | ok i => exact .inl ⟨i, rfl, rfl⟩
  | error e => exact .inr ⟨e, rfl, rfl⟩

@[simp] theorem execWords_nil (s : State) : execWords [] s = .next s := rfl

/-- Executing a list of words is executing the first, then the others where it left off. -/
theorem execWords_cons_of_next {w : CommandWord} {s t : State} (ws : List CommandWord) (h : execWord w s = .next t) :
    execWords (w :: ws) s = execWords ws t := by
  rw [execWords, h]

/-- Everything executing a word can do: it answers a next state with one response more, as a command does, and neither
reads nor writes the queue of commands. -/
theorem execWord_withCommands (w : CommandWord) (s : State) :
    ∃ t r, execWord w s = .next t ∧ t.responses = s.responses ++ [encodeResponse r] ∧ t.params = s.params ∧
      t.commands = s.commands ∧ ∀ q, execWord w (s.withCommands q) = .next (t.withCommands q) := by
  obtain ⟨i, hd, h⟩ | ⟨e, hd, h⟩ := execWord_cases w s
  · have hq : ∀ q, execWord w (s.withCommands q) = exec i (s.withCommands q) := fun q => by simp only [execWord, hd]
    obtain ⟨t, r, ht, hc⟩ := exec_cases i s
    refine ⟨_, r, h.trans ht, ?_, ?_, ?_, fun q => (hq q).trans ((exec_withCommands i s q).trans (by rw [ht]))⟩ <;>
      rcases hc with rfl | ⟨_, _, _, rfl⟩ | ⟨_, _, _, rfl⟩ | ⟨_, _, rfl⟩ <;> rfl
  · exact ⟨_, .fault .illegalOp, h, rfl, rfl, rfl, fun q => by rw [execWord, hd]; rfl⟩

/-- Everything a step that answers a next state can do: nothing, or take the oldest command and execute it. -/
theorem step_eq_next {s t : State} (h : step s = .next t) :
    s.params.Legal ∧ ((fetch s = none ∧ t = s) ∨
      ∃ w rest, s.commands = w :: rest ∧ s.responseRoom = true ∧ execWord w (s.withCommands rest) = .next t) := by
  unfold step at h
  split at h
  case isTrue hl =>
    refine ⟨hl, ?_⟩
    split at h
    case h_1 hf => exact .inl ⟨hf, (Host.Outcome.next.inj h).symm⟩
    case h_2 w s' hf =>
      obtain ⟨rest, hc, hr, rfl⟩ := fetch_eq_some hf
      exact .inr ⟨w, rest, hc, hr, h⟩
  case isFalse => cases h

/-- A run of one step more: the step answers a next state, and the rest of the run starts there. -/
theorem run_of_step (M : Host.Core) {n : Nat} {s t : M.State} {o : Host.Outcome M.State M.Fault M.Refusal}
    (hs : M.step s = .next t) (h : M.run n t = o) : M.run (n + 1) s = o := by
  rw [Host.Core.run, hs]
  exact h

end Sys2Proof.Machine
end

