-- ==== Sys2Proof/Laws/Decode.lean ====
section
/-! SUPPORT. The inversion of the decoder: everything it can accept. -/

namespace Sys2Proof

/-- Everything the decoder accepts: the opcode of a row of R92, with the must-be-zero bits of a write command 0 (R94), and
the command whose operands are the fields of R84. -/
theorem decodeWord_eq_ok {w : CommandWord} {i : Instr} (h : decodeWord w = .ok i) :
    let f3 := w.extractLsb' 48 16
    let f2 := w.extractLsb' 32 16
    let f1 := w.extractLsb' 16 16
    let f0 := w.extractLsb' 0 16
    (opcodeOf w = 0x00#8 ∧ i = .decode f3 f2 f1 f0) ∨
    (opcodeOf w = 0x01#8 ∧ i = .preview f3 f2 f1 f0) ∨
    (opcodeOf w = 0x02#8 ∧ i = .debug f3 f2 f1 f0) ∨
    (opcodeOf w = 0x03#8 ∧ i = .decodexy f3 f2 f1 f0) ∨
    ((opcodeOf w).extractLsb' 2 6 = 0b000001#6 ∧ i = .place ((opcodeOf w).extractLsb' 0 2) f3 f2 f1 f0) ∨
    (opcodeOf w = 0x10#8 ∧ w.extractLsb' 51 13 = 0#13 ∧
      i = .wrGfx (w.extractLsb' 51 13) (w.extractLsb' 32 19) (w.extractLsb' 0 32)) ∨
    (opcodeOf w = 0x11#8 ∧ w.extractLsb' 44 20 = 0#20 ∧
      i = .wrPal (w.extractLsb' 44 20) (w.extractLsb' 32 12) (w.extractLsb' 0 32)) ∨
    (opcodeOf w = 0x12#8 ∧ w.extractLsb' 32 32 = 0#32 ∧ i = .wrRes (w.extractLsb' 32 32) f1 f0) := by
  unfold decodeWord at h
  dsimp only at h ⊢
  repeat' split at h
  all_goals cases h
  all_goals simp only [*, true_or, or_true, and_self]

end Sys2Proof
end

