-- ==== Sys2Proof/Laws/PerInstr.lean ====
section
/-! SUPPORT. What holds of every command as syntax, one lemma per constructor. -/

namespace Sys2Proof.Laws

/-- The opcode of a command (30_encoding.md rule R92). -/
def opcodeByte : Instr → BitVec 8
  | .decode _ _ _ _ => 0x00#8
  | .preview _ _ _ _ => 0x01#8
  | .debug _ _ _ _ => 0x02#8
  | .decodexy _ _ _ _ => 0x03#8
  | .place corner _ _ _ _ => 0b000001#6 ++ corner
  | .wrGfx _ _ _ => 0x10#8
  | .wrPal _ _ _ => 0x11#8
  | .wrRes _ _ _ => 0x12#8

namespace OpcodeField

/-- `cmd[71:64]` of a command's word is its opcode (R82, R92). -/
def Statement (i : Instr) : Prop := (encode i).extractLsb' 64 8 = opcodeByte i

theorem decode (paf tileId v u : Field) : Statement (.decode paf tileId v u) := by
  refine BitVec.eq_of_getLsbD_eq fun i hi => ?_
  simp only [encode, opcodeByte, BitVec.getLsbD_append, BitVec.getLsbD_extractLsb']; grind

theorem preview (paf tileId v u : Field) : Statement (.preview paf tileId v u) := by
  refine BitVec.eq_of_getLsbD_eq fun i hi => ?_
  simp only [encode, opcodeByte, BitVec.getLsbD_append, BitVec.getLsbD_extractLsb']; grind

theorem debug (paf tileId v u : Field) : Statement (.debug paf tileId v u) := by
  refine BitVec.eq_of_getLsbD_eq fun i hi => ?_
  simp only [encode, opcodeByte, BitVec.getLsbD_append, BitVec.getLsbD_extractLsb']; grind

theorem decodexy (paf tileId y x : Field) : Statement (.decodexy paf tileId y x) := by
  refine BitVec.eq_of_getLsbD_eq fun i hi => ?_
  simp only [encode, opcodeByte, BitVec.getLsbD_append, BitVec.getLsbD_extractLsb']; grind

theorem place (corner : BitVec 2) (paf tileId gridY gridX : Field) :
    Statement (.place corner paf tileId gridY gridX) := by
  refine BitVec.eq_of_getLsbD_eq fun i hi => ?_
  simp only [encode, opcodeByte, BitVec.getLsbD_append, BitVec.getLsbD_extractLsb']; grind

theorem wrGfx (mbz : BitVec 13) (waddr : BitVec 19) (data : Word) : Statement (.wrGfx mbz waddr data) := by
  refine BitVec.eq_of_getLsbD_eq fun i hi => ?_
  simp only [encode, opcodeByte, BitVec.getLsbD_append, BitVec.getLsbD_extractLsb']; grind

theorem wrPal (mbz : BitVec 20) (paddr : BitVec 12) (color : Word) : Statement (.wrPal mbz paddr color) := by
  refine BitVec.eq_of_getLsbD_eq fun i hi => ?_
  simp only [encode, opcodeByte, BitVec.getLsbD_append, BitVec.getLsbD_extractLsb']; grind

theorem wrRes (mbz : BitVec 32) (resY resX : Field) : Statement (.wrRes mbz resY resX) := by
  refine BitVec.eq_of_getLsbD_eq fun i hi => ?_
  simp only [encode, opcodeByte, BitVec.getLsbD_append, BitVec.getLsbD_extractLsb']; grind

end OpcodeField

end Sys2Proof.Laws
end

