-- ==== Sys2Proof/Tests/Slice0.lean ====
section
/-! SUPPORT. Small tests. Every expected word is printed in spec/95_test_vectors.md (sections S1 to S9 and 2.1 to 2.9) or
in the worked example of the command's own rule, but for the witnesses, which show that the hypotheses of a statement
can be met. -/

namespace Sys2Proof.Tests

open Sys2Proof.Machine

/-! ### Well-formedness: one ill-formed term for each check (R94) -/

theorem test_wrGfx_mbz_is_ill_formed : (Instr.wrGfx 1 8 0).wellFormed = false := by decide
theorem test_wrPal_mbz_is_ill_formed : (Instr.wrPal 0x80000 2 0).wellFormed = false := by decide
theorem test_wrRes_mbz_is_ill_formed : (Instr.wrRes 1 224 256).wellFormed = false := by decide
theorem test_flag_bits_are_well_formed : (Instr.decode 0xFF00 1 0 0).wellFormed = true := by decide

/-! ### Decoding: words written out from the encodings of R84 and R92 -/

/-- R92 with R84 format X: op 0x00, paf 0x0302, tile_id 2, V 0x5800, U 0x3800 (section 2.4). -/
theorem test_decode_word : decodeWord 0x000302000258003800#72 = .ok (.decode 0x0302 2 0x5800 0x3800) := by decide
/-- Section 2.5, the ignored fields all ones. -/
theorem test_preview_word : decodeWord 0x01FFFFFFFF6C002C00#72 = .ok (.preview 0xFFFF 0xFFFF 0x6C00 0x2C00) := by decide
/-- Section 2.6, the ignored fields tile 1 and paf 0x000F. -/
theorem test_debug_word : decodeWord 0x02000F000148004800#72 = .ok (.debug 0x000F 1 0x4800 0x4800) := by decide
/-- Section 2.4. -/
theorem test_decodexy_word : decodeWord 0x030001000300030005#72 = .ok (.decodexy 1 3 3 5) := by decide
/-- Section 2.7: corner 3, gx = -3, gy = 5, tile 7, paf 2. -/
theorem test_place_word : decodeWord 0x07000200070005FFFD#72 = .ok (.place 3 2 7 5 0xFFFD) := by decide
/-- R210's example. -/
theorem test_wrGfx_word : decodeWord 0x100000000800FF0000#72 = .ok (.wrGfx 0 8 0x00FF0000) := by decide
/-- R211's example. -/
theorem test_wrPal_word : decodeWord 0x1100000027FF11D827#72 = .ok (.wrPal 0 0x27 0xFF11D827) := by decide
/-- R212's example. -/
theorem test_wrRes_word : decodeWord 0x120000000000E00100#72 = .ok (.wrRes 0 224 256) := by decide
/-- R93: the reserved opcodes are rejected by name. -/
theorem test_reserved_word : decodeWord 0x130123456789ABCDEF#72 = .error (.reservedOpcode 0x13) := by decide
/-- R94: `cmd[51]` = 1 (section 2.8). -/
theorem test_mbz_word : decodeWord 0x100008000800000001#72 = .error (.mustBeZero 0x10) := by decide
/-- R92: no word belongs to two rows of the opcode map. -/
theorem test_opcode_rows_do_not_overlap :
    opcodeTable.Pairwise (fun a b => a.pattern &&& (a.mask &&& b.mask) ≠ b.pattern &&& (a.mask &&& b.mask)) := by decide
/-- The interface's numbering: bit 0 is the least significant bit of the one word. -/
theorem test_table_word : decodeTableWord 72 0x120000000000E00100 = some (.wrRes 0 224 256) := by decide

/-! ### The textual syntax (R102, R103) -/

/-- `PLACE corner=3, gx=-3, gy=5, tile=7, paf=0x0002` (section 2.7). -/
theorem test_assemble_place :
    (assemble ⟨"PLACE", [("corner", 3), ("gx", -3), ("gy", 5), ("tile", 7), ("paf", 2)]⟩).map encode
      = some 0x07000200070005FFFD#72 := by decide
/-- `PREVIEW u=0x2C00, v=0x6C00`: the fields it ignores are 0 (R102). -/
theorem test_assemble_preview :
    (assemble ⟨"PREVIEW", [("u", 0x2C00), ("v", 0x6C00)]⟩).map encode = some 0x01000000006C002C00#72 := by decide
/-- Program P1, commands 2 and 3: the first two words of `WR_TILE tile=1`. -/
theorem test_wrTile_words :
    ((wrTile 1 #v[0x00FF0000, 0, 0, 0, 0, 0, 0, 0]).map encode).take 2
      = [0x100000000800FF0000#72, 0x100000000900000000#72] := by decide

/-! ### Small states -/

/-- A state with the words of one tile, some palette entries, and the resolution (256, 224). -/
def bench (tileId : Nat) (words : List Word) (entries : List (Nat × Word)) : State :=
  let loaded := (words.zipIdx).foldl (fun m (p : Word × Nat) => Memory.putWord m (8 * tileId + p.2) p.1) []
  let colors := entries.foldl (fun m (p : Nat × Word) => Memory.putWord m p.1 p.2) []
  { State.reset with gfx := loaded, pal := colors, resX := 256, resY := 224, resWritten := true }

/-- Tile 1, the golden fixture (S9). -/
def fixture : State := bench 1 [0x00FF0000, 0, 0, 0, 0, 0, 0, 0] [(1, 0xFF07FE01)]

/-- Tile 3, the example words of R154. -/
def example3 : State :=
  bench 3 [0, 0xB4D2137F, 0, 0, 0, 0x0FF0A55A, 0, 0] [(0x0B, 0xFF4DF40B), (0x1A, 0xFFB6E51A)]

/-- Tile 0x14, the DEBUG tile (R200). -/
def debugTile : State :=
  bench 20 [0xFF0F000F, 0xFF0F000F, 0xFF0F000F, 0xFF0F000F, 0x00000000, 0x00FF00FF, 0xFF00FF00, 0xFFFFFFFF]
    [(0x57, 0xFF61A857)]

/-- The newest response word after a command. -/
def answer : Host.Outcome State Fault Refusal → Option ResponseWord
  | .next t => t.responses.getLast?
  | .fault _ => none
  | .refused _ => none

/-! ### The commands -/

/-- Section 2.4: tile 3, pixel (5, 3), index 10, bank 1: `PAL[0x1A]`. -/
theorem test_decode_color :
    answer (execWord 0x000001000348005800#72 example3) = some 0x000000000000000000000000FFB6E51A#128 := by decide
/-- Section 2.4: index 0 in bank 16 is transparent, no fault. -/
theorem test_decode_discard :
    answer (execWord 0x000010000178001800#72 fixture) = some 0x10000000000000000000000000000000#128 := by decide
/-- Section 2.4: row 2 is the low half of word 1; column 7, index 11. -/
theorem test_decodexy_low_half :
    answer (execWord 0x030000000300020007#72 example3) = some 0x000000000000000000000000FF4DF40B#128 := by decide
/-- R181's example: `X` = 8. -/
theorem test_decodexy_coord_range :
    answer (execWord 0x030000000100010008#72 fixture) = some 0xF2000000000000000000000000000000#128 := by decide
/-- R190's example: cell (2, 5), entry 0x25. -/
theorem test_preview_entry :
    answer (execWord 0x01000000006C002C00#72 (bench 0 [] [(0x25, 0xFF03DA25)]))
      = some 0x000000000000000000000000FF03DA25#128 := by decide
/-- Section 2.5: `uv.x` = 1. -/
theorem test_preview_coord_range :
    answer (execWord 0x010000000040008000#72 fixture) = some 0xF2000000000000000000000000000000#128 := by decide
/-- R200's example: pixel (4, 3), index 7, entry 0x57. -/
theorem test_debug_color :
    answer (execWord 0x020000000048004800#72 debugTile) = some 0x000000000000000000000000FF61A857#128 := by decide
/-- Section 2.6: with `GFX_TILES` = 20 a DEBUG with a legal UV is TILE_RANGE. -/
theorem test_debug_tile_range :
    answer (execWord 0x020000000048004800#72 (State.resetWith ⟨20, 256, none, none⟩))
      = some 0xF3000000000000000000000000000000#128 := by decide
/-- Section 2.7: negative `gx`. -/
theorem test_place_negative :
    answer (execWord 0x07000200070005FFFD#72 fixture) = some 0x2000000002000780008000000CCFFF14#128 := by decide
/-- Section 2.7: extreme grid values, payload passed through. -/
theorem test_place_extreme :
    answer (execWord 0x05FFFFFFFF80007FFF#72 fixture) = some 0x200000FFFFFFFF00008000200C01FF1C#128 := by decide
/-- Section 2.8: the last legal word address is `GFX[63].w[3]`. -/
theorem test_wrGfx_last_word :
    (match execWord 0x10000000FFDEADBEEF#72 fixture with
      | .next t => some (t.gfxWord (4 * 63 + 3))
      | _ => none) = some 0xDEADBEEF#32 := by decide
/-- Section 2.8: the first illegal address. -/
theorem test_wrGfx_range :
    answer (execWord 0x1000000100DEADBEEF#72 fixture) = some 0xF6000000000000000000000000000000#128 := by decide
/-- R211's example. -/
theorem test_wrPal_entry :
    (match execWord 0x1100000027FF11D827#72 fixture with
      | .next t => some (t.palEntry 0x27, t.responses)
      | _ => none) = some (0xFF11D827#32, [0x30000000000000000000000000000000#128]) := by decide
/-- Section 2.8: the first illegal palette address. -/
theorem test_wrPal_range :
    answer (execWord 0x110000010000000001#72 fixture) = some 0xF6000000000000000000000000000000#128 := by decide
/-- Section 2.8: extreme values. -/
theorem test_wrRes_values :
    (match execWord 0x12000000000001FFFF#72 fixture with
      | .next t => some (t.resX, t.resY)
      | _ => none) = some (0xFFFF#16, 1#16) := by decide
/-- Section 2.8: `cmd[32]` = 1, `RES` unchanged. -/
theorem test_wrRes_mbz :
    (match execWord 0x120000000100E00100#72 fixture with
      | .next t => some (t.resX, t.resY, t.responses)
      | _ => none) = some (256#16, 224#16, [0xF1000000000000000000000000000000#128]) := by decide

/-! ### The step and the invariant -/

/-- The interface places a word that the very next step executes. -/
theorem test_withFetchWord_runs :
    (match step (State.reset.withFetchWord 72 0x120000000000E00100) with
      | .next t => some (t.resX, t.resY, t.commands, t.responses)
      | _ => none) = some (256#16, 224#16, [], [0x30000000000000000000000000000000#128]) := by decide
/-- U13: a graphics memory of no tiles is refused. -/
theorem test_illegal_configuration_is_refused :
    (match step (State.resetWith ⟨0, 256, none, none⟩) with | .refused r => some r | _ => none)
      = some .illegalConfiguration := by decide
theorem test_reset_memories_are_canonical : State.reset.gfx.Wf ∧ State.reset.pal.Wf := by decide
theorem test_loaded_memories_are_canonical : fixture.gfx.Wf ∧ fixture.pal.Wf := by decide

/-! ### Witnesses: concrete states and operands that meet the hypotheses of the statements

One for each clause with hypotheses of its own, at a boundary of its range where it has one. -/

/-- A command and a response in the queues, both with room for no more than they hold and one more response. -/
def busy : State :=
  { fixture with
    params := ⟨32, 256, some 2, some 2⟩, commands := [0x120000000000E00100, 0x090000000000000000],
    responses := [encodeResponse .ack] }

/-- The response queue holds all it can. -/
def full : State := { busy with params := ⟨32, 256, some 2, some 1⟩ }

/-- The resolution (0, 224). -/
def noWidth : State := { fixture with resX := 0 }

/-- The palette of the smallest size, and a tile whose pixel (0, 0) has index 15. -/
def smallPalette : State :=
  { bench 0 [0xFFFFFFFF, 0, 0, 0, 0xFFFFFFFF, 0, 0, 0] [(15, 0xFF69F00F)] with params := ⟨1, 16, none, none⟩ }

theorem witness_DecodeOfEncodeIsTheCommand : (Instr.wrGfx 0 0x7FFFF 1).wellFormed = true := by decide
theorem witness_EncodeOfDecodeIsTheWord :
    decodeWord 0x07FFFFFFFFFFFFFFFF#72 = .ok (.place 3 0xFFFF 0xFFFF 0xFFFF 0xFFFF) := by decide
theorem witness_DecoderAcceptsExactlyTheOpcodeMap :
    decodeWord 0x110000002700000001#72 = .ok (.wrPal 0 0x27 1) ∧
    (opcodeTable[6]).matchesWord 0x110000002700000001#72 = true := by decide
theorem witness_ReservedOpcodesAnswerIllegalOp :
    (0x08 ≤ ((0x080000000000000000#72).extractLsb' 64 8).toNat ∧ ((0x080000000000000000#72).extractLsb' 64 8).toNat ≤ 0x0F) ∧
    (0x08 ≤ ((0x0F0000000000000000#72).extractLsb' 64 8).toNat ∧ ((0x0F0000000000000000#72).extractLsb' 64 8).toNat ≤ 0x0F) ∧
    0x13 ≤ ((0x130000000000000000#72).extractLsb' 64 8).toNat ∧
    0x13 ≤ ((0xFF0000000000000000#72).extractLsb' 64 8).toNat := by decide
theorem witness_MustBeZeroBitsAnswerIllegalOp :
    (0x100008000800000001#72).extractLsb' 64 8 = 0x10#8 ∧ (0x100008000800000001#72).extractLsb' 51 13 ≠ 0#13 ∧
    (0x110000100100000001#72).extractLsb' 64 8 = 0x11#8 ∧ (0x110000100100000001#72).extractLsb' 44 20 ≠ 0#20 ∧
    (0x120000000100E00100#72).extractLsb' 64 8 = 0x12#8 ∧ (0x120000000100E00100#72).extractLsb' 32 32 ≠ 0#32 ∧
    ((0x07FFFFFFFFFFFFFFFF#72).extractLsb' 64 8).toNat < 8 := by decide
theorem witness_StepRunsTheDecodedCommand :
    busy.params.Legal ∧ busy.responseRoom = true ∧
    busy.commands = 0x120000000000E00100#72 :: [0x090000000000000000#72] ∧
    decodeWord 0x120000000000E00100#72 = .ok (.wrRes 0 224 256) := by decide
theorem witness_StepWaitsWithAllStateKept :
    (State.reset.params.Legal ∧ State.reset.commands = []) ∧ (full.params.Legal ∧ full.responseRoom = false) := by decide
theorem witness_StepIsNeverStuck : busy.params.Legal ∧ ¬ (State.resetWith ⟨65537, 256, none, none⟩).params.Legal := by decide
theorem witness_StepAnswersTheOldestCommand :
    busy.params.Legal ∧ busy.responseRoom = true ∧
    busy.commands = 0x120000000000E00100#72 :: [0x090000000000000000#72] := by decide
/-- One response and two commands in the queues, and a response queue of depth 3: exactly the room for all. -/
def brimming : State := { busy with params := ⟨32, 256, some 2, some 3⟩ }

theorem witness_DrainAnswersEveryCommandOnce :
    brimming.params.Legal ∧ brimming.commands.length = 2 ∧ brimming.params.rspDepth = some 3 ∧
    ∀ d ∈ brimming.params.rspDepth, brimming.responses.length + brimming.commands.length ≤ d :=
  ⟨by decide, rfl, rfl, fun _ hd => Option.some.inj hd ▸ Nat.le_refl 3⟩
/-- The newest response of `brimming` after two steps is that of its second command, a reserved opcode. -/
theorem test_drain_is_in_order :
    (match Sys2Proof.core.run 2 brimming with
      | .next t => some (t.resX, t.responses.tail)
      | _ => none) = some (256#16, [0x30000000000000000000000000000000#128, 0xF1000000000000000000000000000000#128]) := by
  decide
theorem witness_UvCoordinateOnTheLegalDomain :
    ((0x7FFF#16).toNat ≤ 0x7FFF ∧ 1 ≤ (1#16).toNat ∧ (1#16).toNat ≤ 0x8000) ∧
    ((0#16).toNat ≤ 0x7FFF ∧ 1 ≤ (0x8000#16).toNat ∧ (0x8000#16).toNat ≤ 0x8000) ∧
    ¬ ((0x8000#16).toNat ≤ 0x7FFF ∧ 1 ≤ (0x4000#16).toNat ∧ (0x4000#16).toNat ≤ 0x8000) ∧
    ¬ ((0x4000#16).toNat ≤ 0x7FFF ∧ 1 ≤ (0#16).toNat ∧ (0#16).toNat ≤ 0x8000) ∧
    ¬ ((0x4000#16).toNat ≤ 0x7FFF ∧ 1 ≤ (0x8001#16).toNat ∧ (0x8001#16).toNat ≤ 0x8000) := by decide
/-- Section 2.1: the last legal values, and `uv.y` = 0.875 exactly. -/
theorem witness_UvCoordinateIsTheFloor :
    uvToTileCoord 0x7FFF 0x0001 = .ok (7, 7) ∧ uvToTileCoord 0x4000 0x7000 = .ok (4, 1) := by decide
/-- Section 2.5: the last legal values are cell (15, 15). -/
theorem witness_PreviewIndexIsTheFloor : uvToPreviewIndex 0x7FFF 0x0001 = .ok 255 := by decide
theorem witness_EveryTileBitHasItsMeaning : (0 : Nat) < 4 ∧ (3 : Nat) < 4 := by decide
theorem witness_ZeroAndSingleBitTiles :
    ((recordLine 0x80#128 1).getLsbD (7 - (0#3).toNat) = false ∧
      (recordLine 0x80#128 1).getLsbD (15 - (0#3).toNat) = false ∧
      (recordLine 0x80#128 1).getLsbD (7 - (0#3).toNat) = false ∧
      (recordLine 0x80#128 1).getLsbD (15 - (0#3).toNat) = false) ∧ 255 < 256 := by decide

/-- The five clauses of DECODE: a colour, a discard, the two ends of the UV interval, the first tile out of range, the
first address out of range. -/
theorem witness_DecodeResolvesThePixelUnderUv :
    (∃ (px py : BitVec 3) (index : ColorIndex) (addr : Nat),
      px.toNat = (0x5800#16).toNat / 4096 % 8 ∧ py.toNat = (0x8000 - (0x4800#16).toNat) / 4096 % 8 ∧
      index = unpack (example3.gfxRecord (2 * (3#16).toNat)) (example3.gfxRecord (2 * (3#16).toNat + 1)) px py ∧
      addr = index.toNat + (0x0001#16).toNat % 256 * 16 ∧ (3#16).toNat < example3.params.gfxTiles ∧ index ≠ 0#4 ∧
      addr < example3.params.palEntries) ∧
    (∃ (px py : BitVec 3) (index : ColorIndex),
      px.toNat = (0#16).toNat / 4096 % 8 ∧ py.toNat = (0x8000 - (0x8000#16).toNat) / 4096 % 8 ∧
      index = unpack (example3.gfxRecord (2 * (3#16).toNat)) (example3.gfxRecord (2 * (3#16).toNat + 1)) px py ∧
      index = 0#4) ∧
    (¬ ((0x8000#16).toNat < 0x8000) ∧ ¬ (0 < (0#16).toNat) ∧ ¬ ((0x8001#16).toNat ≤ 0x8000)) ∧
    (example3.params.gfxTiles ≤ (32#16).toNat) ∧
    (∃ (px py : BitVec 3) (index : ColorIndex) (addr : Nat),
      px.toNat = (0x7800#16).toNat / 4096 % 8 ∧ py.toNat = (0x8000 - (0x7800#16).toNat) / 4096 % 8 ∧
      index = unpack (smallPalette.gfxRecord (2 * (0#16).toNat)) (smallPalette.gfxRecord (2 * (0#16).toNat + 1)) px py ∧
      addr = index.toNat + (0x0001#16).toNat % 256 * 16 ∧ index ≠ 0#4 ∧ smallPalette.params.palEntries ≤ addr) :=
  ⟨⟨5, 3, 10, 26, by decide⟩, ⟨0, 0, 0, by decide⟩, by decide, by decide, ⟨7, 0, 15, 31, by decide⟩⟩

/-- The five clauses of DECODEXY, at the corner pixels (7, 0) and (0, 0) and at `X`, `Y` = 8. -/
theorem witness_DecodexyResolvesTheGivenPixel :
    (∃ (px py : BitVec 3) (index : ColorIndex) (addr : Nat),
      px.toNat = (7#16).toNat % 8 ∧ py.toNat = (0#16).toNat % 8 ∧ (7#16).toNat ≤ 7 ∧
      index = unpack (smallPalette.gfxRecord (2 * (0#16).toNat)) (smallPalette.gfxRecord (2 * (0#16).toNat + 1)) px py ∧
      addr = index.toNat + (0xFF00#16).toNat % 256 * 16 ∧ (0#16).toNat < smallPalette.params.gfxTiles ∧ index ≠ 0#4 ∧
      addr < smallPalette.params.palEntries) ∧
    (∃ (px py : BitVec 3) (index : ColorIndex),
      px.toNat = (7#16).toNat % 8 ∧ py.toNat = (7#16).toNat % 8 ∧
      index = unpack (example3.gfxRecord (2 * (3#16).toNat)) (example3.gfxRecord (2 * (3#16).toNat + 1)) px py ∧
      index = 0#4) ∧
    (7 < (8#16).toNat ∧ 7 < (0xFFFF#16).toNat) ∧
    (smallPalette.params.gfxTiles ≤ (1#16).toNat) ∧
    (∃ (px py : BitVec 3) (index : ColorIndex) (addr : Nat),
      px.toNat = (0#16).toNat % 8 ∧ py.toNat = (0#16).toNat % 8 ∧
      index = unpack (smallPalette.gfxRecord (2 * (0#16).toNat)) (smallPalette.gfxRecord (2 * (0#16).toNat + 1)) px py ∧
      addr = index.toNat + (0x00FF#16).toNat % 256 * 16 ∧ index ≠ 0#4 ∧ smallPalette.params.palEntries ≤ addr) :=
  ⟨⟨7, 0, 15, 15, by decide⟩, ⟨7, 7, 0, by decide⟩, by decide, by decide, ⟨0, 0, 15, 4095, by decide⟩⟩

/-- The five clauses of DEBUG: R200's example, its pixel (0, 0), `V` = 0, `GFX_TILES` = 20, `PAL_ENTRIES` = 80. -/
theorem witness_DebugResolvesTheFixedTile :
    (∃ (px py : BitVec 3) (index : ColorIndex),
      px.toNat = (0x4800#16).toNat / 4096 % 8 ∧ py.toNat = (0x8000 - (0x4800#16).toNat) / 4096 % 8 ∧
      index = unpack (debugTile.gfxRecord 0x28) (debugTile.gfxRecord 0x29) px py ∧ 20 < debugTile.params.gfxTiles ∧
      index ≠ 0#4 ∧ index.toNat + 0x50 < debugTile.params.palEntries) ∧
    (∃ (px py : BitVec 3) (index : ColorIndex),
      px.toNat = (0x0800#16).toNat / 4096 % 8 ∧ py.toNat = (0x8000 - (0x7800#16).toNat) / 4096 % 8 ∧
      index = unpack (debugTile.gfxRecord 0x28) (debugTile.gfxRecord 0x29) px py ∧ index = 0#4) ∧
    ¬ (0 < (0#16).toNat) ∧
    ((State.resetWith ⟨20, 256, none, none⟩).params.gfxTiles ≤ 20) ∧
    (∃ (px py : BitVec 3) (index : ColorIndex),
      px.toNat = (0x4800#16).toNat / 4096 % 8 ∧ py.toNat = (0x8000 - (0x7800#16).toNat) / 4096 % 8 ∧
      index = unpack (debugTile.gfxRecord 0x28) (debugTile.gfxRecord 0x29) px py ∧ index ≠ 0#4 ∧
      (Params.mk 32 80 none none).palEntries ≤ index.toNat + 0x50) :=
  ⟨⟨4, 3, 7, by decide⟩, ⟨0, 0, 0, by decide⟩, by decide, by decide, ⟨4, 0, 1, by decide⟩⟩

/-- The three clauses of PREVIEW: cell (15, 15), the ends of the interval, and the first entry out of a palette of 16. -/
theorem witness_PreviewAnswersTheGridEntry :
    (255 = (0x7FFF#16).toNat / 2048 + (0x8000 - (1#16).toNat) / 2048 * 16 ∧ 255 < fixture.params.palEntries) ∧
    (¬ ((0x8000#16).toNat < 0x8000) ∧ ¬ (0 < (0#16).toNat)) ∧
    (16 = (0#16).toNat / 2048 + (0x8000 - (0x7800#16).toNat) / 2048 * 16 ∧ smallPalette.params.palEntries ≤ 16) := by
  decide

/-- The two clauses of PLACE. -/
theorem witness_PlaceAnswersThePosition :
    ((1 : Nat) = ((3#2).getLsbD 0).toNat ∧ (1 : Nat) = ((3#2).getLsbD 1).toNat ∧ fixture.resX ≠ 0#16 ∧
      fixture.resY ≠ 0#16) ∧
    (noWidth.resX = 0#16 ∨ noWidth.resY = 0#16) := by decide
/-- The three clauses of WR_GFX: the last legal word, a must-be-zero bit, the first illegal word. -/
theorem witness_WrGfxWritesOneWord :
    ((255#19).toNat / 4 < 2 * fixture.params.gfxTiles) ∧ (1#13 ≠ 0#13) ∧
    (2 * fixture.params.gfxTiles ≤ (256#19).toNat / 4) := by decide
/-- The three clauses of WR_PAL: the last legal entry, a must-be-zero bit, the first illegal entry. -/
theorem witness_WrPalWritesOneEntry :
    ((255#12).toNat < fixture.params.palEntries) ∧ (1#20 ≠ 0#20) ∧
    (fixture.params.palEntries ≤ (256#12).toNat) := by decide
theorem witness_WrResWritesBothRegisters : (0#32 = 0#32) ∧ (1#32 ≠ 0#32) := by decide

theorem witness_PixelAndPlaceCommandsWriteNoState : ∃ t, exec (.decode 0 1 0x6800 0x1800) fixture = .next t := ⟨_, rfl⟩
theorem witness_WrGfxChangesOnlyItsWord :
    ∃ t, exec (.wrGfx 0 255 0xDEADBEEF) fixture = .next t ∧ t.gfx ≠ fixture.gfx := ⟨_, rfl, by decide⟩
theorem witness_WrPalChangesOnlyItsEntry :
    ∃ t, exec (.wrPal 0 255 1) fixture = .next t ∧ t.pal ≠ fixture.pal := ⟨_, rfl, by decide⟩
theorem witness_WrResChangesNoMemory : ∃ t, exec (.wrRes 0 1 0xFFFF) fixture = .next t := ⟨_, rfl⟩
theorem witness_FaultingCommandChangesNothing :
    ∃ t, exec (.decode 0x10 1 0x6800 0x1800) fixture = .next t ∧
      t.responses = fixture.responses ++ [encodeResponse (.fault .palRange)] := ⟨_, rfl, by decide⟩
/-- One faulting command for each clause of R227. -/
theorem witness_CausesEachCommandCanRaise :
    (∃ t, exec (.place 0 0 0 0 0) noWidth = .next t ∧ t.responses = [encodeResponse (.fault .resZero)]) ∧
    (∃ t, exec (.decode 0 1 0 0) fixture = .next t ∧ t.responses = [encodeResponse (.fault .coordRange)]) ∧
    (∃ t, exec (.decodexy 0 32 7 7) fixture = .next t ∧ t.responses = [encodeResponse (.fault .tileRange)]) ∧
    (∃ t, exec (.preview 0 0 0x7800 0) smallPalette = .next t ∧ t.responses = [encodeResponse (.fault .palRange)]) ∧
    (∃ t, exec (.debug 0 0 0x4800 0x4800) smallPalette = .next t ∧
      t.responses = [encodeResponse (.fault .tileRange)]) ∧
    (∃ t, exec (.wrGfx 1 0 0) fixture = .next t ∧ t.responses = [encodeResponse (.fault .illegalOp)]) ∧
    (∃ t, exec (.wrPal 0 256 0) fixture = .next t ∧ t.responses = [encodeResponse (.fault .wrRange)]) ∧
    (∃ t, exec (.wrRes 1 0 0) fixture = .next t ∧ t.responses = [encodeResponse (.fault .illegalOp)]) :=
  ⟨⟨_, rfl, by decide⟩, ⟨_, rfl, by decide⟩, ⟨_, rfl, by decide⟩, ⟨_, rfl, by decide⟩, ⟨_, rfl, by decide⟩,
    ⟨_, rfl, by decide⟩, ⟨_, rfl, by decide⟩, ⟨_, rfl, by decide⟩⟩

theorem witness_DecodeAgreesWithDecodexy :
    (0x7FFF#16).toNat ≤ 0x7FFF ∧ 1 ≤ (1#16).toNat ∧ (0x8000#16).toNat ≤ 0x8000 := by decide
theorem witness_PreviewOfACellCentre : 15 < 16 ∧ 15 + 16 * 15 < fixture.params.palEntries := by decide
theorem witness_ZeroTileIsTransparentForEveryBank :
    (0#16).toNat < fixture.params.gfxTiles ∧
    ∀ j < 8, (bench 0 [0, 0, 0, 0, 0, 0, 0, 0] []).gfxWord (8 * (0#16).toNat + j) = 0#32 := by decide
theorem witness_IgnoredFieldsHaveNoEffect :
    (0x0302#16).extractLsb' 0 8 = (0xFF02#16).extractLsb' 0 8 ∧ 0x0302#16 ≠ 0xFF02#16 := by decide
/-- Two states that agree on tile 1 and on the entry addressed, and differ in the resolution. -/
theorem witness_PixelDependsOnlyOnItsTileAndEntry :
    let other := { fixture with resX := 1, resY := 1 }
    fixture.params.gfxTiles = other.params.gfxTiles ∧ fixture.params.palEntries = other.params.palEntries ∧
    (∀ j < 8, fixture.gfxWord (8 * (1#16).toNat + j) = other.gfxWord (8 * (1#16).toNat + j)) ∧
    fixture.palEntry 1 = other.palEntry 1 ∧ fixture ≠ other := by decide
theorem witness_PixelCommandsCommute :
    ∀ k ∈ [Instr.decode 0 1 0x6800 0x1800, Instr.place 0 0 0 0 0], match k with
      | .wrGfx _ _ _ => False
      | .wrPal _ _ _ => False
      | .wrRes _ _ _ => False
      | _ => True := by
  intro k hk
  rcases List.mem_cons.1 hk with rfl | hk
  · trivial
  · rw [List.mem_singleton.1 hk]; trivial
theorem witness_PreviewReadsBackWrPal :
    (255#12).toNat < 256 ∧ (255#12).toNat < fixture.params.palEntries ∧
    ∃ t, exec (.wrPal 0 255 1) fixture = .next t := ⟨by decide, by decide, _, rfl⟩
theorem witness_WrTileLoadsTheTile : (31#16).toNat < State.reset.params.gfxTiles := by decide
theorem witness_PlacementNumeratorsAreExact : 0xFFFF#16 ≠ 0#16 ∧ 1#16 ≠ 0#16 := by decide
theorem witness_PlacedQuadGeometry :
    (1#2).getLsbD 0 = (3#2).getLsbD 0 ∧ (2#2).getLsbD 1 = (3#2).getLsbD 1 := by decide
theorem witness_ResetEmptiesTheQueues : busy.assertReset.inReset = true ∧ busy.commands ≠ [] := by decide
theorem witness_HostHandshake :
    fixture.rspValid = false ∧ busy.rspValid = true ∧
    fixture.cmdReady = true ∧ busy.cmdReady = false ∧ fixture.assertReset.cmdReady = false ∧
    busy.take.isSome = true := by decide
theorem witness_ResetMeetsTheInvariant : (Params.mk 1 16 (some 1) (some 1)).Legal := by decide

theorem busy_inv : busy.Inv where
  legal := by decide
  gfxWf := by decide
  palWf := by decide
  gfxInside := by decide
  palInside := by decide
  commandsFit := by intro d hd; obtain rfl := Option.some.inj hd; decide
  responsesFit := by intro d hd; obtain rfl := Option.some.inj hd; decide
  responsesLegal := by intro w hw; obtain rfl := List.mem_singleton.1 hw; decide +kernel
  resetEmpty := by decide

theorem witness_StepKeepsTheInvariant : busy.Inv ∧ ∃ t, step busy = .next t ∧ t ≠ busy := ⟨busy_inv, _, rfl, by decide⟩
theorem witness_HostActionsKeepTheInvariant : busy.Inv ∧ ∃ r t, busy.take = some (r, t) := ⟨busy_inv, _, _, rfl⟩
/-- The golden fixture before any WR_RES: its tile and its entry are written, its resolution is not. -/
def halfBooted : State := { fixture with resWritten := false }

theorem witness_BootedCommandIgnoresUnspecifiedContents :
    (halfBooted.bootMet (.decode 0 1 0x6800 0x1800) = true ∧ halfBooted.bootMet (.place 0 0 0 0 0) = false ∧
      (halfBooted.withUnspecified 1 0 7).resY ≠ halfBooted.resY) ∧
    fixture.bootMet (.decode 0 1 0x6800 0x1800) = true ∧ fixture.bootMet (.place 0 0 0 0 0) = true ∧
    State.reset.bootMet (.decode 0 1 0x6800 0x1800) = false ∧
    ∃ t, exec (.decode 0 1 0x6800 0x1800) fixture = .next t := ⟨by decide, by decide, by decide, by decide, _, rfl⟩

end Sys2Proof.Tests
end

/-! PROOFS. The step as a whole (O8, O10) and the invariant right after reset (O53). -/

namespace Sys2Proof.Machine

/-! ### What a step does in each of its cases -/

/-- U13, U14, and the model's choice for a queue depth of 0 (logs 2 and 7). -/
theorem step_of_not_legal {s : State} (hl : ¬ s.params.Legal) : step s = .refused .illegalConfiguration := if_neg hl

/-- R235, R256: with nothing to take, the step is idle. -/
theorem step_of_fetch_eq_none {s : State} (hl : s.params.Legal) (hf : fetch s = none) : step s = .next s := by
  simp only [step, if_pos hl, hf]

theorem step_of_fetch_eq_some {s t : State} {w : CommandWord} (hl : s.params.Legal) (hf : fetch s = some (w, t)) :
    step s = execWord w t := by
  simp only [step, if_pos hl, hf]

/-- The converse of `fetch_eq_some`. -/
theorem fetch_of_responseRoom {s : State} {w : CommandWord} {rest : List CommandWord} (hr : s.responseRoom = true)
    (hc : s.commands = w :: rest) : fetch s = some (w, s.withCommands rest) := by
  simp only [fetch, hc, hr, if_true]

theorem execWord_of_decodeWord_eq_ok {w : CommandWord} {i : Instr} (hd : decodeWord w = .ok i) (s : State) :
    execWord w s = exec i s := by
  simp only [execWord, hd]

/-- R223: idle or not, a step in a legal configuration goes on, because executing a word always does. -/
theorem exists_step_eq_next {s : State} (hl : s.params.Legal) : ∃ t, step s = .next t := by
  cases hf : fetch s with
  | none => exact ⟨s, step_of_fetch_eq_none hl hf⟩
  | some taken =>
    obtain ⟨w, s'⟩ := taken
    obtain ⟨t, _, ht, _⟩ := execWord_withCommands w s'
    exact ⟨t, (step_of_fetch_eq_some hl hf).trans ht⟩

/-! ### The state right after reset -/

theorem reference_legal : Params.reference.Legal := by decide

/-- R40: after reset both memories list nothing and both queues are empty, so only the configuration is asked for. -/
theorem resetWith_inv {p : Params} (hl : p.Legal) : (State.resetWith p).Inv where
  legal := hl
  gfxWf := .nil
  palWf := .nil
  gfxInside := List.forall_mem_nil _
  palInside := List.forall_mem_nil _
  commandsFit := fun d _ => d.zero_le
  responsesFit := fun d _ => d.zero_le
  responsesLegal := List.forall_mem_nil _
  resetEmpty := fun _ => ⟨rfl, rfl⟩

/-! ### The obligations -/

/-- Settles O10, by the two branches of the step on the configuration. -/
theorem stepIsNeverStuck : Obligations.StepIsNeverStuck := fun _ => ⟨exists_step_eq_next, step_of_not_legal⟩

/-- Settles O8: the oldest word is fetched, then executed as the command it decodes to. -/
theorem stepRunsTheDecodedCommand : Obligations.StepRunsTheDecodedCommand := by
  intro s w rest i hl hr hc hd
  calc step s = execWord w (s.withCommands rest) := step_of_fetch_eq_some hl (fetch_of_responseRoom hr hc)
    _ = exec i { s with commands := rest } := execWord_of_decodeWord_eq_ok hd _

/-- Settles O53: `State.reset` is the reset with the reference parameters, which are legal. -/
theorem resetMeetsTheInvariant : Obligations.ResetMeetsTheInvariant :=
  ⟨resetWith_inv reference_legal, fun _ hl => resetWith_inv hl⟩

end Sys2Proof.Machine

/-! PROOFS. What every step and every action of the host keeps (O54, O55), the run of a whole queue (O11, O12), the frame
of each command (O34 to O37), and the host's side of the ports (O51, O52). -/

namespace Sys2Proof.Machine

/-! ### A response word is read back (R100, R101) -/

theorem extractLsb'_kind_encodeResponse (r : Response) : (encodeResponse r).extractLsb' 124 4 = kindCode r := by
  simp only [encodeResponse]
  rw [BitVec.extractLsb'_append_eq_of_le (by omega), BitVec.extractLsb'_append_eq_of_le (by omega)]
  exact BitVec.extractLsb'_append_eq_left

theorem extractLsb'_cause_encodeResponse (r : Response) : (encodeResponse r).extractLsb' 120 4 = causeField r := by
  simp only [encodeResponse]
  rw [BitVec.extractLsb'_append_eq_of_le (by omega), BitVec.extractLsb'_append_eq_of_le (by omega)]
  exact BitVec.extractLsb'_append_eq_right

theorem extractLsb'_encodeResponse_of_le (r : Response) {start len : Nat} (h : start + len ≤ 104) :
    (encodeResponse r).extractLsb' start len = (payload r).extractLsb' start len := by
  simp only [encodeResponse]
  exact BitVec.extractLsb'_append_eq_of_add_le h

theorem causeOfCode_causeCode (c : Cause) : causeOfCode (causeCode c) = some c := by
  cases c <;> rfl

/-- The six fields of a POSITION, from the low end (R100). -/
theorem extractLsb'_payload_position (numX numY : BitVec 20) (outU outV tileId paf : Field) :
    let p := payload (.position numX numY outU outV tileId paf)
    p.extractLsb' 0 20 = numX ∧ p.extractLsb' 20 20 = numY ∧ p.extractLsb' 40 16 = outU ∧
      p.extractLsb' 56 16 = outV ∧ p.extractLsb' 72 16 = tileId ∧ p.extractLsb' 88 16 = paf := by
  simp only [payload]
  refine ⟨?_, ?_, ?_, ?_, ?_, ?_⟩
  all_goals repeat rw [BitVec.extractLsb'_append_eq_of_le (by omega)]
  case refine_6 => exact BitVec.extractLsb'_eq_self
  all_goals exact BitVec.extractLsb'_append_eq_right

/-- The fields of a response's word are those of the response (R100). -/
theorem responseOfFields_encodeResponse (r : Response) : responseOfFields (encodeResponse r) = some r := by
  unfold responseOfFields
  simp only [extractLsb'_kind_encodeResponse, extractLsb'_cause_encodeResponse]
  cases r with
  | color entry =>
    rw [extractLsb'_encodeResponse_of_le _ (by omega)]
    exact congrArg (some ∘ Response.color) BitVec.extractLsb'_append_eq_right
  | discard => rfl
  | position numX numY outU outV tileId paf =>
    obtain ⟨h0, h1, h2, h3, h4, h5⟩ := extractLsb'_payload_position numX numY outU outV tileId paf
    repeat rw [extractLsb'_encodeResponse_of_le _ (by omega)]
    rw [h0, h1, h2, h3, h4, h5]
    rfl
  | ack => rfl
  | fault c => exact congrArg (Option.map Response.fault) (causeOfCode_causeCode c)

/-- Every response the unit emits is a word it may produce (R100, U12). -/
theorem isResponseWord_encodeResponse (r : Response) : isResponseWord (encodeResponse r) = true := by
  simp only [isResponseWord, decodeResponse, responseOfFields_encodeResponse, if_pos, Option.isSome_some]

/-! ### The queues and the two handshakes -/

/-- The queue's depth is a bound only where there is one (U16). -/
theorem hasRoom_iff {depth : Option Nat} {n : Nat} : hasRoom depth n = true ↔ ∀ d ∈ depth, n < d := by
  cases depth <;> simp [hasRoom]

/-- R38: a word added to a queue with room leaves it within its depth. -/
theorem withinDepth_append_singleton {α : Type} {depth : Option Nat} {q : List α} (a : α)
    (h : hasRoom depth q.length = true) : WithinDepth depth (q ++ [a]).length := fun d hd => by
  rw [List.length_append]
  exact hasRoom_iff.1 h d hd

theorem State.cmdReady_iff {s : State} :
    s.cmdReady = true ↔ s.inReset = false ∧ hasRoom s.params.cmdDepth s.commands.length = true := by
  simp only [State.cmdReady, Bool.and_eq_true, Bool.not_eq_true']

theorem State.rspValid_iff {s : State} : s.rspValid = true ↔ s.inReset = false ∧ s.responses ≠ [] := by
  simp only [State.rspValid, Bool.and_eq_true, Bool.not_eq_true', List.isEmpty_eq_false_iff]

theorem State.accept_of_cmdReady {s : State} (h : s.cmdReady = true) (w : CommandWord) :
    s.accept w = { s with commands := s.commands ++ [w], accepted := s.accepted + 1 } := if_pos h

theorem State.accept_of_not_cmdReady {s : State} (h : s.cmdReady = false) (w : CommandWord) : s.accept w = s :=
  if_neg (Bool.eq_false_iff.1 h)

theorem State.take_eq_none_iff {s : State} : s.take = none ↔ s.rspValid = false := by
  unfold State.take State.rspValid
  split <;> simp [*]

theorem State.cmdReady_of_inReset {s : State} (h : s.inReset = true) : s.cmdReady = false := by
  simp only [State.cmdReady, h, Bool.not_true, Bool.false_and]

theorem State.rspValid_of_inReset {s : State} (h : s.inReset = true) : s.rspValid = false := by
  simp only [State.rspValid, h, Bool.not_true, Bool.false_and]

theorem State.withCommands_of_commands_eq {s : State} {q : List CommandWord} (h : s.commands = q) :
    s.withCommands q = s := h ▸ rfl

@[simp] theorem State.withCommands_withCommands (s : State) (p q : List CommandWord) :
    (s.withCommands p).withCommands q = s.withCommands q := rfl

/-! ### All that a command can write (R39) -/

/-- What a command may have done to the state by the time it responds. -/
inductive State.Written (s : State) : State → Prop where
  | nothing : s.Written s
  | gfx (waddr : BitVec 19) (data : Word) (inside : recordOfWaddr waddr < 2 * s.params.gfxTiles) :
      s.Written (s.writeGfx (recordOfWaddr waddr) (wordOfWaddr waddr) data)
  | pal (paddr : Nat) (color : Word) (inside : paddr < s.params.palEntries) : s.Written (s.writePal paddr color)
  | res (x y : Field) : s.Written (s.writeRes x y)

/-- R11, R39, R93: executing a word writes one location at most, then responds once. -/
theorem execWord_written (w : CommandWord) (s : State) :
    ∃ u r, s.Written u ∧ execWord w s = .next (u.respond r) := by
  rcases execWord_cases w s with ⟨i, _, he⟩ | ⟨_, _, he⟩
  · obtain ⟨u, r, hx, hu⟩ := exec_cases i s
    refine ⟨u, r, ?_, he.trans hx⟩
    rcases hu with rfl | ⟨waddr, data, hin, rfl⟩ | ⟨paddr, color, hin, rfl⟩ | ⟨x, y, rfl⟩
    · exact .nothing
    · exact .gfx waddr data hin
    · exact .pal paddr color hin
    · exact .res x y
  · exact ⟨s, .fault .illegalOp, .nothing, he⟩

namespace State.Written

variable {s u : State}

theorem params_eq (h : s.Written u) : u.params = s.params := by cases h <;> rfl
theorem commands_eq (h : s.Written u) : u.commands = s.commands := by cases h <;> rfl
theorem responses_eq (h : s.Written u) : u.responses = s.responses := by cases h <;> rfl
theorem accepted_eq (h : s.Written u) : u.accepted = s.accepted := by cases h <;> rfl
theorem inReset_eq (h : s.Written u) : u.inReset = s.inReset := by cases h <;> rfl

end State.Written

/-! ### How a command ends -/

/-- A command that writes no state ends in a response, be it a fault's. -/
theorem State.conclude_eq_respond (s : State) (e : Except Cause Response) : ∃ r, s.conclude e = s.respond r := by
  cases e with
  | ok r => exact ⟨r, rfl⟩
  | error c => exact ⟨.fault c, rfl⟩

/-- WR_GFX ends with the state it found or with its word written, and one response. -/
theorem exec_wrGfx_eq_next {mbz : BitVec 13} {waddr : BitVec 19} {data : Word} {s t : State}
    (ht : exec (.wrGfx mbz waddr data) s = .next t) : ∃ r, t = s.respond r ∨
      t = (s.writeGfx (recordOfWaddr waddr) (wordOfWaddr waddr) data).respond r := by
  rcases exec_wrGfx_cases mbz waddr data s with ⟨_, h⟩ | ⟨_, _, h⟩ | ⟨_, _, h⟩
  all_goals obtain rfl := Host.Outcome.next.inj (h.symm.trans ht)
  · exact ⟨_, .inl rfl⟩
  · exact ⟨_, .inl rfl⟩
  · exact ⟨_, .inr rfl⟩

/-- WR_PAL ends with the state it found or with its entry written, and one response. -/
theorem exec_wrPal_eq_next {mbz : BitVec 20} {paddr : BitVec 12} {color : Word} {s t : State}
    (ht : exec (.wrPal mbz paddr color) s = .next t) : ∃ r, t = s.respond r ∨
      t = (s.writePal paddr.toNat color).respond r := by
  rcases exec_wrPal_cases mbz paddr color s with ⟨_, h⟩ | ⟨_, _, h⟩ | ⟨_, _, h⟩
  all_goals obtain rfl := Host.Outcome.next.inj (h.symm.trans ht)
  · exact ⟨_, .inl rfl⟩
  · exact ⟨_, .inl rfl⟩
  · exact ⟨_, .inr rfl⟩

/-! ### The invariant: one lemma per update of the state -/

namespace State.Inv

variable {s : State}

/-- R50, R91: the last byte of the last word of a record inside graphics memory is inside it. -/
theorem writeGfx (h : s.Inv) {waddr : BitVec 19} (hin : recordOfWaddr waddr < 2 * s.params.gfxTiles) (data : Word) :
    (s.writeGfx (recordOfWaddr waddr) (wordOfWaddr waddr) data).Inv where
  __ := h
  gfxWf := Memory.putWord_wf h.gfxWf _ _
  gfxInside c hc := by
    have hword : wordOfWaddr waddr ≤ 3 := Nat.and_le_right
    rcases Memory.mem_putWord hc with hc | hc
    · rw [State.writeGfx_params]
      omega
    · exact h.gfxInside c hc

/-- R51. -/
theorem writePal (h : s.Inv) {paddr : Nat} (hin : paddr < s.params.palEntries) (color : Word) :
    (s.writePal paddr color).Inv where
  __ := h
  palWf := Memory.putWord_wf h.palWf _ _
  palInside c hc := by
    rcases Memory.mem_putWord hc with hc | hc
    · rw [State.writePal_params]
      omega
    · exact h.palInside c hc

theorem writeRes (h : s.Inv) (x y : Field) : (s.writeRes x y).Inv where
  __ := h

theorem written (h : s.Inv) {u : State} (hu : s.Written u) : u.Inv := by
  cases hu with
  | nothing => exact h
  | gfx waddr data hin => exact h.writeGfx hin data
  | pal paddr color hin => exact h.writePal hin color
  | res x y => exact h.writeRes x y

/-- R38, R250: a response needs room for it and a unit that is out of reset. -/
theorem respond (h : s.Inv) (hroom : s.responseRoom = true) (hrun : s.inReset = false) (r : Response) :
    (s.respond r).Inv where
  __ := h
  responsesFit := withinDepth_append_singleton _ hroom
  responsesLegal w hw := by
    rcases List.mem_append.1 hw with hw | hw
    · exact h.responsesLegal w hw
    · rw [List.mem_singleton.1 hw]
      exact isResponseWord_encodeResponse r
  resetEmpty hreset := absurd (hrun.symm.trans hreset) Bool.false_ne_true

/-- R38: taking the oldest command makes the queue of commands shorter. -/
theorem withCommands_tail (h : s.Inv) {w : CommandWord} {rest : List CommandWord} (hc : s.commands = w :: rest) :
    (s.withCommands rest).Inv where
  __ := h
  commandsFit d hd := by
    have hfit := h.commandsFit d hd
    rw [hc, List.length_cons] at hfit
    exact Nat.le_of_succ_le hfit
  resetEmpty hreset := by
    obtain ⟨hempty, _⟩ := h.resetEmpty hreset
    exact absurd (hc.symm.trans hempty) (List.cons_ne_nil w rest)

/-- R250: a unit that holds a command is out of reset. -/
theorem inReset_of_commands (h : s.Inv) {w : CommandWord} {rest : List CommandWord} (hc : s.commands = w :: rest) :
    s.inReset = false := by
  refine Bool.eq_false_iff.2 fun hreset => ?_
  obtain ⟨hempty, _⟩ := h.resetEmpty hreset
  exact absurd (hc.symm.trans hempty) (List.cons_ne_nil w rest)

theorem execWord (h : s.Inv) (hroom : s.responseRoom = true) (hrun : s.inReset = false) {w : CommandWord} {t : State}
    (ht : execWord w s = .next t) : t.Inv := by
  obtain ⟨u, r, hu, he⟩ := execWord_written w s
  obtain rfl : u.respond r = t := Host.Outcome.next.inj (he.symm.trans ht)
  refine (h.written hu).respond ?_ (hu.inReset_eq.trans hrun) r
  rwa [State.responseRoom, hu.params_eq, hu.responses_eq]

/-- R38, R80: a command is accepted only out of reset and with room. -/
theorem accept (h : s.Inv) (w : CommandWord) : (s.accept w).Inv := by
  cases hready : s.cmdReady with
  | false => rwa [State.accept_of_not_cmdReady hready]
  | true =>
    obtain ⟨hrun, hroom⟩ := State.cmdReady_iff.1 hready
    rw [State.accept_of_cmdReady hready]
    exact { h with
      commandsFit := withinDepth_append_singleton w hroom
      resetEmpty := fun hreset => absurd (hrun.symm.trans hreset) Bool.false_ne_true }

theorem take (h : s.Inv) {r : ResponseWord} {t : State} (ht : s.take = some (r, t)) : t.Inv := by
  obtain ⟨rest, hresp, hrun, rfl⟩ := State.take_eq_some ht
  exact { h with
    responsesFit := fun d hd => by
      have hfit := h.responsesFit d hd
      rw [hresp, List.length_cons] at hfit
      exact Nat.le_of_succ_le hfit
    responsesLegal := fun w hw => h.responsesLegal w (hresp ▸ List.mem_cons_of_mem r hw)
    resetEmpty := fun hreset => absurd (hrun.symm.trans hreset) Bool.false_ne_true }

/-- R250: in reset nothing is written and nothing is queued, as right after the reset `State.resetWith` describes. -/
theorem assertReset (h : s.Inv) : s.assertReset.Inv where
  __ := resetWith_inv h.legal
  resetEmpty _ := ⟨rfl, rfl⟩

theorem releaseReset (h : s.Inv) : s.releaseReset.Inv where
  __ := h
  resetEmpty hreset := absurd hreset Bool.false_ne_true

end State.Inv

/-! ### The obligations: the invariant -/

/-- Settles O54: an idle step changes nothing; any other takes a command, so that the unit is out of reset, writes one
location at most and appends one response to a queue with room. -/
theorem stepKeepsTheInvariant : Obligations.StepKeepsTheInvariant := by
  intro s t hs hstep
  obtain ⟨_, ⟨_, rfl⟩ | ⟨w, rest, hc, hroom, he⟩⟩ := step_eq_next hstep
  · exact hs
  · exact (hs.withCommands_tail hc).execWord hroom (hs.inReset_of_commands hc) he

/-- Settles O55, by one lemma for each action of the host. -/
theorem hostActionsKeepTheInvariant : Obligations.HostActionsKeepTheInvariant := fun _ hs =>
  ⟨hs.accept, fun _ _ => hs.take, hs.assertReset, hs.releaseReset, hs.assertReset.releaseReset⟩

/-! ### The obligations: the step and the run -/

/-- Settles O11: the word is executed on the state without it, and what a command writes is none of the four fields. -/
theorem stepAnswersTheOldestCommand : Obligations.StepAnswersTheOldestCommand := by
  intro s w rest hl hroom hc
  obtain ⟨u, r, hu, he⟩ := execWord_written w (s.withCommands rest)
  have hstep : step s = .next (u.respond r) :=
    (step_of_fetch_eq_some hl (fetch_of_responseRoom hroom hc)).trans he
  refine ⟨u.respond r, r, hstep, hu.commands_eq, ?_, hu.accepted_eq, hu.params_eq⟩
  rw [State.respond_responses, hu.responses_eq, State.withCommands_responses]

/-- No step at all executes no command: the base of the run, whatever is queued. -/
theorem drain_zero (s : State) (rs : List Response) :
    ∃ u : State, execWords (s.commands.take 0) (s.withCommands []) = .next u ∧
      Sys2Proof.core.run 0 s = .next (u.withCommands (s.commands.drop 0)) ∧ u.commands = [] ∧
      u.responses = s.responses ++ (rs.take 0).map encodeResponse :=
  ⟨s.withCommands [], rfl, rfl, rfl, (List.append_nil _).symm⟩

/-- Settles O12, by induction on the queue of commands: the first step executes the first word, whatever is queued behind
it, and leaves a state with one command less and one response more, so with the room the other commands need. -/
theorem drainAnswersEveryCommandOnce : Obligations.DrainAnswersEveryCommandOnce := by
  intro s hl hroom
  generalize hq : s.commands = q at hroom ⊢
  induction q generalizing s with
  | nil =>
    refine ⟨[], rfl, fun k hk => ?_⟩
    obtain rfl := Nat.le_zero.1 hk
    exact hq ▸ drain_zero s []
  | cons w ws ih =>
    have hfirst : s.responseRoom = true := hasRoom_iff.2 fun d hd =>
      (Nat.lt_add_of_pos_right ws.length.succ_pos).trans_le (hroom d hd)
    obtain ⟨t, r, ht, hresp, hparams, hcmds, hqueue⟩ := execWord_withCommands w (s.withCommands [])
    have hstep : step s = .next (t.withCommands ws) :=
      (step_of_fetch_eq_some hl (fetch_of_responseRoom hfirst hq)).trans (hqueue ws)
    have hrest : ∀ d ∈ t.params.rspDepth, t.responses.length + ws.length ≤ d := fun d hd => by
      have hd := hroom d (hparams ▸ hd)
      simp only [hresp, State.withCommands_responses, List.length_append, List.length_cons, List.length_nil] at hd ⊢
      omega
    obtain ⟨rs, hlen, hrun⟩ := ih (t.withCommands ws) (hparams ▸ hl) rfl hrest
    refine ⟨r :: rs, congrArg Nat.succ hlen, fun k hk => ?_⟩
    cases k with
    | zero => exact hq ▸ drain_zero s (r :: rs)
    | succ k =>
      obtain ⟨u, hu, hrunk, huc, hur⟩ := hrun k (Nat.le_of_succ_le_succ hk)
      rw [State.withCommands_withCommands, State.withCommands_of_commands_eq (q := []) hcmds] at hu
      refine ⟨u, (execWords_cons_of_next _ ht).trans hu, run_of_step Sys2Proof.core hstep hrunk, huc, ?_⟩
      rw [hur, State.withCommands_responses, hresp, List.append_assoc]
      rfl

/-! ### The obligations: the frames -/

/-- Settles O34: each of the five commands ends in `State.conclude`, which changes the queue of responses only. -/
theorem pixelAndPlaceCommandsWriteNoState : Obligations.PixelAndPlaceCommandsWriteNoState := by
  intro i s t hi ht
  have hconclude : ∃ e, exec i s = .next (s.conclude e) := by
    cases i with
    | decode paf tileId v u => exact ⟨_, exec_decode ..⟩
    | preview paf tileId v u => exact ⟨_, exec_preview ..⟩
    | debug paf tileId v u => exact ⟨_, exec_debug ..⟩
    | decodexy paf tileId y x => exact ⟨_, exec_decodexy ..⟩
    | place corner paf tileId gridY gridX => exact ⟨_, exec_place ..⟩
    | wrGfx mbz waddr data => exact hi.elim
    | wrPal mbz paddr color => exact hi.elim
    | wrRes mbz resY resX => exact hi.elim
  obtain ⟨e, he⟩ := hconclude
  obtain ⟨r, hr⟩ := s.conclude_eq_respond e
  obtain rfl : s.respond r = t := Host.Outcome.next.inj ((he.trans (congrArg _ hr)).symm.trans ht)
  exact ⟨fun _ => rfl, fun _ => rfl, rfl, rfl, rfl, rfl, rfl, rfl, rfl, rfl, r, rfl⟩

/-- Settles O35: a byte outside the word written reads as before. -/
theorem wrGfxChangesOnlyItsWord : Obligations.WrGfxChangesOnlyItsWord := by
  intro mbz waddr data s t ht
  obtain ⟨r, rfl | rfl⟩ := exec_wrGfx_eq_next ht
  · exact ⟨fun _ _ => rfl, fun _ => rfl, rfl, rfl, rfl, rfl, rfl, rfl, rfl, rfl, r, rfl⟩
  · refine ⟨fun a ha => ?_, fun _ => rfl, rfl, rfl, rfl, rfl, rfl, rfl, rfl, rfl, r, rfl⟩
    rw [State.gfxByte_respond, State.gfxByte_writeGfx, if_neg (by omega)]

/-- Settles O36: a byte outside the entry written reads as before. -/
theorem wrPalChangesOnlyItsEntry : Obligations.WrPalChangesOnlyItsEntry := by
  intro mbz paddr color s t ht
  obtain ⟨r, rfl | rfl⟩ := exec_wrPal_eq_next ht
  · exact ⟨fun _ _ => rfl, fun _ => rfl, rfl, rfl, rfl, rfl, rfl, rfl, rfl, rfl, r, rfl⟩
  · refine ⟨fun a ha => ?_, fun _ => rfl, rfl, rfl, rfl, rfl, rfl, rfl, rfl, rfl, r, rfl⟩
    rw [State.palByte_respond, State.palByte_writePal, if_neg (by omega)]

/-- Settles O37: it faults, or writes the two registers; neither touches a memory. -/
theorem wrResChangesNoMemory : Obligations.WrResChangesNoMemory := by
  intro mbz resY resX s t ht
  rcases exec_wrRes_cases mbz resY resX s with ⟨_, h⟩ | ⟨_, h⟩
  all_goals
    obtain rfl := Host.Outcome.next.inj (h.symm.trans ht)
    exact ⟨fun _ => rfl, fun _ => rfl, rfl, rfl, rfl, rfl, rfl, _, rfl⟩

/-! ### The obligations: reset and the host -/

/-- Settles O51: the reset's own fields, and both handshakes low while it lasts. -/
theorem resetEmptiesTheQueues : Obligations.ResetEmptiesTheQueues := by
  refine ⟨⟨rfl, rfl, rfl, rfl, rfl, rfl, rfl⟩, fun s => ⟨rfl, rfl, rfl, rfl, rfl, rfl, rfl, rfl⟩,
    fun s => ⟨rfl, rfl, rfl⟩, fun s w hreset => ?_⟩
  have hready := State.cmdReady_of_inReset hreset
  have hvalid := State.rspValid_of_inReset hreset
  exact ⟨hready, State.accept_of_not_cmdReady hready w, hvalid, State.take_eq_none_iff.2 hvalid⟩

/-- Settles O52, by the equations of accepting and of taking in terms of the two handshakes. -/
theorem hostHandshake : Obligations.HostHandshake := by
  intro s w
  refine ⟨State.cmdReady_iff.trans (and_congr_right fun _ => hasRoom_iff), State.rspValid_iff,
    fun hready => State.accept_of_cmdReady hready w, fun hready => State.accept_of_not_cmdReady hready w,
    State.take_eq_none_iff, fun r t ht => ?_⟩
  obtain ⟨rest, hresp, _, rfl⟩ := State.take_eq_some ht
  exact ⟨hresp, rfl⟩

end Sys2Proof.Machine

/-! PROOFS. The one order in which commands meet the memories (R58, R60): two commands that write nothing commute (O46),
and PREVIEW reads back what WR_PAL wrote (O47). -/

namespace Sys2Proof.Machine

/-! ### A response does not depend on the responses before it -/

@[simp] theorem pixelResponse_respond (s : State) (r : Response) (coord : Except Cause PixelCoord)
    (tileId offset : Nat) : pixelResponse (s.respond r) coord tileId offset = pixelResponse s coord tileId offset := rfl
@[simp] theorem previewResponse_respond (s : State) (r : Response) (u v : Field) :
    previewResponse (s.respond r) u v = previewResponse s u v := rfl
@[simp] theorem placeResponse_respond (s : State) (r : Response) (corner : BitVec 2) (paf tileId gridY gridX : Field) :
    placeResponse (s.respond r) corner paf tileId gridY gridX = placeResponse s corner paf tileId gridY gridX := rfl

/-- R58 (b): in every state the command only responds, and with the same response after one more response. -/
def OnlyAnswers (i : Instr) : Prop :=
  ∀ s : State, ∃ r, exec i s = .next (s.respond r) ∧
    ∀ r', exec i (s.respond r') = .next ((s.respond r').respond r)

/-- A command that concludes with what it read of the state only answers, where the reading leaves the responses out. -/
theorem OnlyAnswers.of_conclude {i : Instr} {answer : State → Except Cause Response}
    (hexec : ∀ s, exec i s = .next (s.conclude (answer s))) (hanswer : ∀ s r, answer (s.respond r) = answer s) :
    OnlyAnswers i := by
  intro s
  cases ha : answer s with
  | ok r => exact ⟨r, by rw [hexec, ha, State.conclude_ok], fun r' => by rw [hexec, hanswer, ha, State.conclude_ok]⟩
  | error c => exact ⟨.fault c, by rw [hexec, ha]; rfl, fun r' => by rw [hexec, hanswer, ha]; rfl⟩

theorem onlyAnswers_decode (paf tileId v u : Field) : OnlyAnswers (.decode paf tileId v u) :=
  .of_conclude (fun _ => exec_decode ..) fun s r => pixelResponse_respond s r ..
theorem onlyAnswers_preview (paf tileId v u : Field) : OnlyAnswers (.preview paf tileId v u) :=
  .of_conclude (fun _ => exec_preview ..) fun s r => previewResponse_respond s r ..
theorem onlyAnswers_debug (paf tileId v u : Field) : OnlyAnswers (.debug paf tileId v u) :=
  .of_conclude (fun _ => exec_debug ..) fun s r => pixelResponse_respond s r ..
theorem onlyAnswers_decodexy (paf tileId y x : Field) : OnlyAnswers (.decodexy paf tileId y x) :=
  .of_conclude (fun _ => exec_decodexy ..) fun s r => pixelResponse_respond s r ..
theorem onlyAnswers_place (corner : BitVec 2) (paf tileId gridY gridX : Field) :
    OnlyAnswers (.place corner paf tileId gridY gridX) :=
  .of_conclude (fun _ => exec_place ..) fun s r => placeResponse_respond s r ..

/-- Two commands that only answer give the same two responses in either order. -/
theorem OnlyAnswers.commute {i j : Instr} (hi : OnlyAnswers i) (hj : OnlyAnswers j) (s : State) :
    ∃ ri rj, exec i s = .next (s.respond ri) ∧ exec j (s.respond ri) = .next ((s.respond ri).respond rj) ∧
      exec j s = .next (s.respond rj) ∧ exec i (s.respond rj) = .next ((s.respond rj).respond ri) := by
  obtain ⟨ri, hfirsti, hlateri⟩ := hi s
  obtain ⟨rj, hfirstj, hlaterj⟩ := hj s
  exact ⟨ri, rj, hfirsti, hlaterj ri, hfirstj, hlateri rj⟩

/-! ### PREVIEW on its legal domain -/

/-- R191: on the legal domain the index is the column plus 16 times the row. -/
theorem uvToPreviewIndex_of_legal {u v : Field} (hu : u.toNat < 0x8000) (hv : 0 < v.toNat) (hv' : v.toNat ≤ 0x8000) :
    uvToPreviewIndex u v = .ok (u.toNat / 2048 + (0x8000 - v.toNat) / 2048 * 16) := by
  have habove : uvAboveOne u v = false := by
    simp only [uvAboveOne, uvOne, Bool.or_eq_false_iff, decide_eq_false_iff_not]
    omega
  have hcol : gridColumn 11 u = u.toNat / 2048 := Nat.shiftRight_eq_div_pow ..
  have hrow : gridRow 11 v = (0x8000 - v.toNat) / 2048 := Nat.shiftRight_eq_div_pow ..
  have hinside : ¬ (u.toNat / 2048 = 16 ∨ (0x8000 - v.toNat) / 2048 = 16) := by omega
  simp only [uvToPreviewIndex, habove, Bool.false_eq_true, if_false, hcol, hrow, previewDim, if_neg hinside]

/-- R190: PREVIEW of a cell inside the palette answers its entry, entry 0 like any other. -/
theorem exec_preview_of_index {s : State} {u v : Field} {idx : Nat} (hidx : uvToPreviewIndex u v = .ok idx)
    (hin : idx < s.params.palEntries) (paf tileId : Field) :
    exec (.preview paf tileId v u) s = .next (s.respond (.color (s.palEntry idx))) := by
  have hresponse : previewResponse s u v = .ok (.color (s.palEntry idx)) := by
    simp only [previewResponse, hidx, bind, Except.bind, if_neg (not_le.2 hin)]
  rw [exec_preview, hresponse, State.conclude_ok]

/-- R194: the centre of the cell in column `c` and row `r` indexes that cell. -/
theorem uvToPreviewIndex_cellCentre {c r : Nat} (hc : c < 16) (hr : r < 16) :
    uvToPreviewIndex (BitVec.ofNat 16 ((2 * c + 1) * 0x400)) (BitVec.ofNat 16 (0x8000 - (2 * r + 1) * 0x400)) =
      .ok (c + 16 * r) := by
  have hu : (BitVec.ofNat 16 ((2 * c + 1) * 0x400)).toNat = (2 * c + 1) * 0x400 :=
    (BitVec.toNat_ofNat ..).trans (Nat.mod_eq_of_lt (by omega))
  have hv : (BitVec.ofNat 16 (0x8000 - (2 * r + 1) * 0x400)).toNat = 0x8000 - (2 * r + 1) * 0x400 :=
    (BitVec.toNat_ofNat ..).trans (Nat.mod_eq_of_lt (by omega))
  rw [uvToPreviewIndex_of_legal (by omega) (by omega) (by omega), hu, hv]
  congr 1
  omega

/-! ### The obligations -/

/-- Settles O46: each of the five commands that are no write command only answers. -/
theorem pixelCommandsCommute : Obligations.PixelCommandsCommute := by
  intro i j s hread
  have hanswers : ∀ k ∈ [i, j], OnlyAnswers k := by
    intro k hk
    have hnowrite := hread k hk
    cases k with
    | decode paf tileId v u => exact onlyAnswers_decode paf tileId v u
    | preview paf tileId v u => exact onlyAnswers_preview paf tileId v u
    | debug paf tileId v u => exact onlyAnswers_debug paf tileId v u
    | decodexy paf tileId y x => exact onlyAnswers_decodexy paf tileId y x
    | place corner paf tileId gridY gridX => exact onlyAnswers_place corner paf tileId gridY gridX
    | wrGfx mbz waddr data => exact hnowrite.elim
    | wrPal mbz paddr color => exact hnowrite.elim
    | wrRes mbz resY resX => exact hnowrite.elim
  exact (hanswers i List.mem_cons_self).commute (hanswers j (List.mem_cons_of_mem i List.mem_cons_self)) s

/-- Settles O47: the WR_PAL is inside the palette, so it writes the entry that PREVIEW of that cell reads. -/
theorem previewReadsBackWrPal : Obligations.PreviewReadsBackWrPal := by
  intro s t paddr color paf tileId hcell hin ht
  have hidx := uvToPreviewIndex_cellCentre (Nat.mod_lt paddr.toNat (by decide : 0 < 16))
    (Nat.div_lt_of_lt_mul hcell : paddr.toNat / 16 < 16)
  rw [Nat.mod_add_div] at hidx
  rcases exec_wrPal_cases 0 paddr color s with ⟨hmbz, _⟩ | ⟨_, hout, _⟩ | ⟨_, _, hwrite⟩
  · exact absurd rfl hmbz
  · exact absurd hin (not_lt.2 hout)
  · obtain rfl := Host.Outcome.next.inj (hwrite.symm.trans ht)
    have hpreview := exec_preview_of_index (s := (s.writePal paddr.toNat color).respond .ack) hidx hin paf tileId
    rwa [State.palEntry_respond, State.palEntry_writePal, if_pos rfl] at hpreview

end Sys2Proof.Machine

/-! PROOFS. The command word (O1 to O3, O5 to O7), the response word (O13 to O16), the fields a command ignores (O44) and
the commands of WR_TILE (O48). -/

namespace Sys2Proof

/-! ### Concatenations and the bits a mask keeps -/

/-- Two concatenations are equal exactly when their parts are. -/
theorem append_eq_append_iff {n m : Nat} {x x' : BitVec n} {y y' : BitVec m} :
    x ++ y = x' ++ y' ↔ x = x' ∧ y = y' := by
  refine ⟨fun h => ⟨?_, ?_⟩, fun ⟨hx, hy⟩ => hx ▸ hy ▸ rfl⟩
  · rw [← BitVec.extractLsb'_append_eq_left (a := x) (b := y), h, BitVec.extractLsb'_append_eq_left]
  · rw [← BitVec.extractLsb'_append_eq_right (a := x) (b := y), h, BitVec.extractLsb'_append_eq_right]

/-- A mask of the `n` high bits keeps their slice and clears the `m` bits below. -/
theorem and_highMask {n m : Nat} (w : BitVec (n + m)) :
    w &&& (BitVec.allOnes n ++ 0#m) = w.extractLsb' m n ++ 0#m := by
  conv_lhs => rw [← BitVec.extractLsb'_append_extractLsb' (x := w)]
  rw [BitVec.and_append, BitVec.and_allOnes, BitVec.and_zero]

/-! ### The fields of a command word (R82, R84) -/

/-- Formats X, C and G: a word is its opcode over four fields. -/
theorem opcode_append_fields (w : CommandWord) :
    opcodeOf w ++ w.extractLsb' 48 16 ++ w.extractLsb' 32 16 ++ w.extractLsb' 16 16 ++ w.extractLsb' 0 16 = w := by
  unfold opcodeOf
  repeat rw [BitVec.extractLsb'_append_extractLsb'_eq_extractLsb' (by omega)]
  exact BitVec.extractLsb'_eq_self

/-- Format W: a word is its opcode over three fields, whose widths `k`, `a` and `d` are those of its row. -/
theorem opcode_append_writeFields (k a d : Nat) (w : BitVec (8 + k + a + d)) :
    w.extractLsb' (k + a + d) 8 ++ w.extractLsb' (a + d) k ++ w.extractLsb' d a ++ w.extractLsb' 0 d = w := by
  repeat rw [BitVec.extractLsb'_append_extractLsb'_eq_extractLsb' (by omega)]
  exact BitVec.extractLsb'_eq_self

/-- Formats X, C and G: a word is built from its opcode and fields, and from no others. -/
theorem append_fields_eq_iff {op : BitVec 8} {f3 f2 f1 f0 : Field} {w : CommandWord} :
    op ++ f3 ++ f2 ++ f1 ++ f0 = w ↔ opcodeOf w = op ∧ w.extractLsb' 48 16 = f3 ∧ w.extractLsb' 32 16 = f2 ∧
      w.extractLsb' 16 16 = f1 ∧ w.extractLsb' 0 16 = f0 := by
  conv_lhs => rw [eq_comm, ← opcode_append_fields w]
  simp only [append_eq_append_iff, and_assoc]

/-- Format W: a word is built from its opcode and fields, and from no others. -/
theorem append_writeFields_eq_iff {k a d : Nat} {op : BitVec 8} {x : BitVec k} {y : BitVec a} {z : BitVec d}
    {w : BitVec (8 + k + a + d)} :
    op ++ x ++ y ++ z = w ↔ w.extractLsb' (k + a + d) 8 = op ∧ w.extractLsb' (a + d) k = x ∧ w.extractLsb' d a = y ∧
      w.extractLsb' 0 d = z := by
  conv_lhs => rw [eq_comm, ← opcode_append_writeFields k a d w]
  simp only [append_eq_append_iff, and_assoc]

section
variable {op : BitVec 8} {w : CommandWord}

theorem append_wrGfxFields_eq_iff {mbz : BitVec 13} {waddr : BitVec 19} {data : Word} :
    op ++ mbz ++ waddr ++ data = w ↔
      opcodeOf w = op ∧ w.extractLsb' 51 13 = mbz ∧ w.extractLsb' 32 19 = waddr ∧ w.extractLsb' 0 32 = data :=
  append_writeFields_eq_iff

theorem append_wrPalFields_eq_iff {mbz : BitVec 20} {paddr : BitVec 12} {color : Word} :
    op ++ mbz ++ paddr ++ color = w ↔
      opcodeOf w = op ∧ w.extractLsb' 44 20 = mbz ∧ w.extractLsb' 32 12 = paddr ∧ w.extractLsb' 0 32 = color :=
  append_writeFields_eq_iff

theorem append_wrResFields_eq_iff {mbz : BitVec 32} {resY resX : Field} :
    op ++ mbz ++ resY ++ resX = w ↔
      opcodeOf w = op ∧ w.extractLsb' 32 32 = mbz ∧ w.extractLsb' 16 16 = resY ∧ w.extractLsb' 0 16 = resX :=
  append_writeFields_eq_iff

end

/-! ### The equations of the decoder, one for each row of R92 and one for the reserved opcodes (R93, R94) -/

section
variable {w : CommandWord}

theorem decodeWord_decode (h : opcodeOf w = 0x00#8) : decodeWord w =
    .ok (.decode (w.extractLsb' 48 16) (w.extractLsb' 32 16) (w.extractLsb' 16 16) (w.extractLsb' 0 16)) := by
  simp [decodeWord, h]

theorem decodeWord_preview (h : opcodeOf w = 0x01#8) : decodeWord w =
    .ok (.preview (w.extractLsb' 48 16) (w.extractLsb' 32 16) (w.extractLsb' 16 16) (w.extractLsb' 0 16)) := by
  simp [decodeWord, h]

theorem decodeWord_debug (h : opcodeOf w = 0x02#8) : decodeWord w =
    .ok (.debug (w.extractLsb' 48 16) (w.extractLsb' 32 16) (w.extractLsb' 16 16) (w.extractLsb' 0 16)) := by
  simp [decodeWord, h]

theorem decodeWord_decodexy (h : opcodeOf w = 0x03#8) : decodeWord w =
    .ok (.decodexy (w.extractLsb' 48 16) (w.extractLsb' 32 16) (w.extractLsb' 16 16) (w.extractLsb' 0 16)) := by
  simp [decodeWord, h]

theorem decodeWord_place (h : (opcodeOf w).extractLsb' 2 6 = 0b000001#6) : decodeWord w =
    .ok (.place ((opcodeOf w).extractLsb' 0 2) (w.extractLsb' 48 16) (w.extractLsb' 32 16) (w.extractLsb' 16 16)
      (w.extractLsb' 0 16)) := by
  have hne (op : BitVec 8) (hop : op.extractLsb' 2 6 ≠ 0b000001#6) : opcodeOf w ≠ op := fun e => hop (e ▸ h)
  simp only [decodeWord, if_neg (hne 0x00#8 (by decide)), if_neg (hne 0x01#8 (by decide)),
    if_neg (hne 0x02#8 (by decide)), if_neg (hne 0x03#8 (by decide)), if_pos h]

theorem decodeWord_wrGfx (h : opcodeOf w = 0x10#8) : decodeWord w =
    if w.extractLsb' 51 13 = 0#13 then
      .ok (.wrGfx (w.extractLsb' 51 13) (w.extractLsb' 32 19) (w.extractLsb' 0 32))
    else .error (.mustBeZero 0x10#8) := by
  simp [decodeWord, h]

theorem decodeWord_wrPal (h : opcodeOf w = 0x11#8) : decodeWord w =
    if w.extractLsb' 44 20 = 0#20 then
      .ok (.wrPal (w.extractLsb' 44 20) (w.extractLsb' 32 12) (w.extractLsb' 0 32))
    else .error (.mustBeZero 0x11#8) := by
  simp [decodeWord, h]

theorem decodeWord_wrRes (h : opcodeOf w = 0x12#8) : decodeWord w =
    if w.extractLsb' 32 32 = 0#32 then
      .ok (.wrRes (w.extractLsb' 32 32) (w.extractLsb' 16 16) (w.extractLsb' 0 16))
    else .error (.mustBeZero 0x12#8) := by
  simp [decodeWord, h]

/-- R94: a must-be-zero bit that is 1 makes the word of a write command no command. -/
theorem decodeWord_mustBeZero
    (h : (opcodeOf w = 0x10#8 ∧ w.extractLsb' 51 13 ≠ 0#13) ∨ (opcodeOf w = 0x11#8 ∧ w.extractLsb' 44 20 ≠ 0#20) ∨
      (opcodeOf w = 0x12#8 ∧ w.extractLsb' 32 32 ≠ 0#32)) :
    decodeWord w = .error (.mustBeZero (opcodeOf w)) := by
  rcases h with ⟨hop, hmbz⟩ | ⟨hop, hmbz⟩ | ⟨hop, hmbz⟩
  · rw [decodeWord_wrGfx hop, if_neg hmbz, hop]
  · rw [decodeWord_wrPal hop, if_neg hmbz, hop]
  · rw [decodeWord_wrRes hop, if_neg hmbz, hop]

/-- The opcodes of PLACE are 0x04 to 0x07 (R90). -/
theorem place_opcode_iff (op : BitVec 8) : op.extractLsb' 2 6 = 0b000001#6 ↔ 4 ≤ op.toNat ∧ op.toNat < 8 := by
  rw [← BitVec.toNat_inj, BitVec.extractLsb'_toNat, Nat.shiftRight_eq_div_pow, BitVec.toNat_ofNat]
  omega

/-- R93: no command has a reserved opcode. -/
theorem decodeWord_reserved (h : (0x08 ≤ (opcodeOf w).toNat ∧ (opcodeOf w).toNat ≤ 0x0F) ∨ 0x13 ≤ (opcodeOf w).toNat) :
    decodeWord w = .error (.reservedOpcode (opcodeOf w)) := by
  have hne (op : BitVec 8) (hop : op.toNat < 8 ∨ (0x10 ≤ op.toNat ∧ op.toNat ≤ 0x12)) : opcodeOf w ≠ op := by
    rintro rfl
    omega
  have hplace : (opcodeOf w).extractLsb' 2 6 ≠ 0b000001#6 := fun hp => by
    obtain ⟨_, hlt⟩ := (place_opcode_iff _).1 hp
    omega
  simp only [decodeWord, if_neg (hne 0x00#8 (by decide)), if_neg (hne 0x01#8 (by decide)),
    if_neg (hne 0x02#8 (by decide)), if_neg (hne 0x03#8 (by decide)), if_neg hplace, if_neg (hne 0x10#8 (by decide)),
    if_neg (hne 0x11#8 (by decide)), if_neg (hne 0x12#8 (by decide))]

/-- R94: formats X, C and G have no must-be-zero bits, so every word of theirs decodes. -/
theorem exists_decodeWord_eq_ok_of_opcode_lt (h : (opcodeOf w).toNat < 8) : ∃ i, decodeWord w = .ok i := by
  by_cases hplace : 4 ≤ (opcodeOf w).toNat
  · exact ⟨_, decodeWord_place ((place_opcode_iff _).2 ⟨hplace, h⟩)⟩
  · obtain h | h | h | h : (opcodeOf w).toNat = 0 ∨ (opcodeOf w).toNat = 1 ∨ (opcodeOf w).toNat = 2 ∨
      (opcodeOf w).toNat = 3 := by omega
    · exact ⟨_, decodeWord_decode (BitVec.eq_of_toNat_eq h)⟩
    · exact ⟨_, decodeWord_preview (BitVec.eq_of_toNat_eq h)⟩
    · exact ⟨_, decodeWord_debug (BitVec.eq_of_toNat_eq h)⟩
    · exact ⟨_, decodeWord_decodexy (BitVec.eq_of_toNat_eq h)⟩

end

/-! ### The rows of the opcode map (R92) -/

/-- A row that fixes the `n` high bits to `p` has the words whose high slice is `p`. -/
theorem beq_highMask_iff {n m : Nat} {w : BitVec (n + m)} {p : BitVec n} :
    (w &&& (BitVec.allOnes n ++ 0#m) == p ++ 0#m) = true ↔ w.extractLsb' m n = p := by
  rw [beq_iff_eq, and_highMask, BitVec.append_left_inj]

section
variable {name : String} {op : BitVec 8} {w : CommandWord}

/-- A row that fixes the opcode alone: DECODE, PREVIEW, DEBUG, DECODEXY. -/
theorem matchesWord_opcode_iff :
    OpcodeRow.matchesWord ⟨name, 0xFF0000000000000000#72, op ++ 0#64⟩ w = true ↔ opcodeOf w = op :=
  beq_highMask_iff (n := 8) (m := 64)

/-- The row of PLACE fixes all of the opcode but the corner (R90). -/
theorem matchesWord_place_iff :
    OpcodeRow.matchesWord ⟨name, 0xFC0000000000000000#72, 0x040000000000000000#72⟩ w = true ↔
      (opcodeOf w).extractLsb' 2 6 = 0b000001#6 := by
  refine (beq_highMask_iff (n := 6) (m := 66) (p := 0b000001#6)).trans (Eq.congr_left ?_)
  refine BitVec.eq_of_toNat_eq ?_
  simp only [opcodeOf, BitVec.extractLsb'_toNat, Nat.shiftRight_eq_div_pow]
  omega

/-- A row of format W fixes the opcode and the `k` must-be-zero bits below it (R94). -/
theorem beq_writeMask_iff {k m : Nat} {w : BitVec (8 + k + m)} :
    (w &&& (BitVec.allOnes (8 + k) ++ 0#m) == op ++ 0#k ++ 0#m) = true ↔
      w.extractLsb' (m + k) 8 = op ∧ w.extractLsb' m k = 0#k := by
  rw [beq_highMask_iff, ← append_eq_append_iff, BitVec.extractLsb'_append_extractLsb'_eq_extractLsb' rfl]

/-- A word that decodes has the fixed bits of the row of its command. -/
theorem exists_row_of_decodeWord_eq_ok {i : Instr} (h : decodeWord w = .ok i) :
    ∃ r ∈ opcodeTable, r.mnemonic = i.mnemonic ∧ r.matchesWord w = true := by
  rcases decodeWord_eq_ok h with ⟨hop, rfl⟩ | ⟨hop, rfl⟩ | ⟨hop, rfl⟩ | ⟨hop, rfl⟩ | ⟨hop, rfl⟩ |
    ⟨hop, hmbz, rfl⟩ | ⟨hop, hmbz, rfl⟩ | ⟨hop, hmbz, rfl⟩
  · exact ⟨opcodeTable[0], List.getElem_mem _, rfl, matchesWord_opcode_iff.2 hop⟩
  · exact ⟨opcodeTable[1], List.getElem_mem _, rfl, matchesWord_opcode_iff.2 hop⟩
  · exact ⟨opcodeTable[2], List.getElem_mem _, rfl, matchesWord_opcode_iff.2 hop⟩
  · exact ⟨opcodeTable[3], List.getElem_mem _, rfl, matchesWord_opcode_iff.2 hop⟩
  · exact ⟨opcodeTable[4], List.getElem_mem _, rfl, matchesWord_place_iff.2 hop⟩
  · exact ⟨opcodeTable[5], List.getElem_mem _, rfl, (beq_writeMask_iff (k := 13) (m := 51)).2 ⟨hop, hmbz⟩⟩
  · exact ⟨opcodeTable[6], List.getElem_mem _, rfl, (beq_writeMask_iff (k := 20) (m := 44)).2 ⟨hop, hmbz⟩⟩
  · exact ⟨opcodeTable[7], List.getElem_mem _, rfl, (beq_writeMask_iff (k := 32) (m := 32)).2 ⟨hop, hmbz⟩⟩

/-- A word with the fixed bits of a row decodes to a command of the row. -/
theorem exists_decodeWord_eq_ok_of_matchesWord {r : OpcodeRow} (hr : r ∈ opcodeTable) (h : r.matchesWord w = true) :
    ∃ i, decodeWord w = .ok i ∧ i.mnemonic = r.mnemonic := by
  simp only [opcodeTable, List.mem_cons, List.not_mem_nil, or_false] at hr
  rcases hr with rfl | rfl | rfl | rfl | rfl | rfl | rfl | rfl
  · exact ⟨_, decodeWord_decode (matchesWord_opcode_iff.1 h), rfl⟩
  · exact ⟨_, decodeWord_preview (matchesWord_opcode_iff.1 h), rfl⟩
  · exact ⟨_, decodeWord_debug (matchesWord_opcode_iff.1 h), rfl⟩
  · exact ⟨_, decodeWord_decodexy (matchesWord_opcode_iff.1 h), rfl⟩
  · exact ⟨_, decodeWord_place (matchesWord_place_iff.1 h), rfl⟩
  · obtain ⟨hop, hmbz⟩ := (beq_writeMask_iff (k := 13) (m := 51) (op := 0x10#8)).1 h
    exact ⟨_, (decodeWord_wrGfx hop).trans (if_pos hmbz), rfl⟩
  · obtain ⟨hop, hmbz⟩ := (beq_writeMask_iff (k := 20) (m := 44) (op := 0x11#8)).1 h
    exact ⟨_, (decodeWord_wrPal hop).trans (if_pos hmbz), rfl⟩
  · obtain ⟨hop, hmbz⟩ := (beq_writeMask_iff (k := 32) (m := 32) (op := 0x12#8)).1 h
    exact ⟨_, (decodeWord_wrRes hop).trans (if_pos hmbz), rfl⟩

end

/-! ### The obligations: the round trips and the opcode map -/

/-- Settles O1: the word of a command has the opcode of its row, and its fields are the operands. -/
theorem decodeOfEncodeIsTheCommand : Obligations.DecodeOfEncodeIsTheCommand := by
  intro i hwf
  generalize hw : encode i = w
  cases i with
  | decode paf tileId v u =>
    obtain ⟨hop, rfl, rfl, rfl, rfl⟩ := append_fields_eq_iff.1 hw
    exact decodeWord_decode hop
  | preview paf tileId v u =>
    obtain ⟨hop, rfl, rfl, rfl, rfl⟩ := append_fields_eq_iff.1 hw
    exact decodeWord_preview hop
  | debug paf tileId v u =>
    obtain ⟨hop, rfl, rfl, rfl, rfl⟩ := append_fields_eq_iff.1 hw
    exact decodeWord_debug hop
  | decodexy paf tileId y x =>
    obtain ⟨hop, rfl, rfl, rfl, rfl⟩ := append_fields_eq_iff.1 hw
    exact decodeWord_decodexy hop
  | place corner paf tileId gridY gridX =>
    obtain ⟨hop, rfl, rfl, rfl, rfl⟩ := append_fields_eq_iff.1 hw
    have hplace : (opcodeOf w).extractLsb' 2 6 = 0b000001#6 := hop ▸ BitVec.extractLsb'_append_eq_left
    rw [decodeWord_place hplace, hop, BitVec.extractLsb'_append_eq_right]
  | wrGfx mbz waddr data =>
    obtain ⟨hop, rfl, rfl, rfl⟩ := append_wrGfxFields_eq_iff.1 hw
    exact (decodeWord_wrGfx hop).trans (if_pos (eq_of_beq hwf))
  | wrPal mbz paddr color =>
    obtain ⟨hop, rfl, rfl, rfl⟩ := append_wrPalFields_eq_iff.1 hw
    exact (decodeWord_wrPal hop).trans (if_pos (eq_of_beq hwf))
  | wrRes mbz resY resX =>
    obtain ⟨hop, rfl, rfl, rfl⟩ := append_wrResFields_eq_iff.1 hw
    exact (decodeWord_wrRes hop).trans (if_pos (eq_of_beq hwf))

/-- Settles O2: whatever row the word is of, it is its opcode over its fields. -/
theorem encodeOfDecodeIsTheWord : Obligations.EncodeOfDecodeIsTheWord := by
  intro w i h
  rcases decodeWord_eq_ok h with ⟨hop, rfl⟩ | ⟨hop, rfl⟩ | ⟨hop, rfl⟩ | ⟨hop, rfl⟩ | ⟨hop, rfl⟩ |
    ⟨hop, hmbz, rfl⟩ | ⟨hop, hmbz, rfl⟩ | ⟨hop, hmbz, rfl⟩
  · exact ⟨rfl, append_fields_eq_iff.2 ⟨hop, rfl, rfl, rfl, rfl⟩⟩
  · exact ⟨rfl, append_fields_eq_iff.2 ⟨hop, rfl, rfl, rfl, rfl⟩⟩
  · exact ⟨rfl, append_fields_eq_iff.2 ⟨hop, rfl, rfl, rfl, rfl⟩⟩
  · exact ⟨rfl, append_fields_eq_iff.2 ⟨hop, rfl, rfl, rfl, rfl⟩⟩
  · have hcorner : opcodeOf w = 0b000001#6 ++ (opcodeOf w).extractLsb' 0 2 :=
      hop ▸ (BitVec.extractLsb'_append_extractLsb' (w := 6) (len := 2) (x := opcodeOf w)).symm
    exact ⟨rfl, append_fields_eq_iff.2 ⟨hcorner, rfl, rfl, rfl, rfl⟩⟩
  · exact ⟨beq_iff_eq.2 hmbz, append_wrGfxFields_eq_iff.2 ⟨hop, rfl, rfl, rfl⟩⟩
  · exact ⟨beq_iff_eq.2 hmbz, append_wrPalFields_eq_iff.2 ⟨hop, rfl, rfl, rfl⟩⟩
  · exact ⟨beq_iff_eq.2 hmbz, append_wrResFields_eq_iff.2 ⟨hop, rfl, rfl, rfl⟩⟩

/-- Settles O3, one direction by the inversion of the decoder, the other by its equations. -/
theorem decoderAcceptsExactlyTheOpcodeMap : Obligations.DecoderAcceptsExactlyTheOpcodeMap := fun _ =>
  ⟨fun _ => exists_row_of_decodeWord_eq_ok, fun _ => exists_decodeWord_eq_ok_of_matchesWord⟩

end Sys2Proof

namespace Sys2Proof.Machine

/-! ### The obligations: words that are no command -/

/-- R93, R94: a word that does not decode answers ILLEGAL_OP. -/
theorem execWord_of_decodeWord_eq_error {w : CommandWord} {e : DecodeError} (hd : decodeWord w = .error e) (s : State) :
    execWord w s = .next (s.respond (.fault .illegalOp)) := by
  simp only [execWord, hd, State.raise]

/-- Settles O5: the decoder rejects every word with a reserved opcode. -/
theorem reservedOpcodesAnswerIllegalOp : Obligations.ReservedOpcodesAnswerIllegalOp := fun _ s h =>
  execWord_of_decodeWord_eq_error (decodeWord_reserved h) s

/-- Settles O6: the decoder rejects the word, so it matches no row; every opcode below 8 is of a row with no such bits. -/
theorem mustBeZeroBitsAnswerIllegalOp : Obligations.MustBeZeroBitsAnswerIllegalOp := by
  refine ⟨fun w s h => ?_, fun w => exists_decodeWord_eq_ok_of_opcode_lt⟩
  have hrejected := decodeWord_mustBeZero h
  refine ⟨execWord_of_decodeWord_eq_error hrejected s, fun r hr => Bool.eq_false_iff.2 fun hmatch => ?_⟩
  obtain ⟨i, hok, _⟩ := exists_decodeWord_eq_ok_of_matchesWord hr hmatch
  cases hok.symm.trans hrejected

/-- Settles O7: executing a word is one of two things, and each appends one response. -/
theorem everyWordIsExecuted : Obligations.EveryWordIsExecuted := by
  intro w s
  obtain ⟨t, r, ht, hresp, _⟩ := execWord_withCommands w s
  refine ⟨(execWord_cases w s).imp_right ?_, t, r, ht, hresp⟩
  rintro ⟨e, hd, he⟩
  exact ⟨⟨e, hd⟩, he⟩

/-! ### The obligations: the response word (R100, R101) -/

/-- The top byte of a response word. -/
theorem extractLsb'_kindCause_encodeResponse (r : Response) :
    (encodeResponse r).extractLsb' 120 8 = kindCode r ++ causeField r := by
  simp only [encodeResponse]
  rw [BitVec.extractLsb'_append_eq_of_le (by omega), BitVec.extractLsb'_append_eq_of_le (by omega)]
  exact BitVec.extractLsb'_eq_self

theorem extractLsb'_reserved_encodeResponse (r : Response) : (encodeResponse r).extractLsb' 104 16 = 0#16 := by
  simp only [encodeResponse]
  rw [BitVec.extractLsb'_append_eq_of_le (by omega)]
  exact BitVec.extractLsb'_append_eq_right

theorem extractLsb'_payload_encodeResponse (r : Response) : (encodeResponse r).extractLsb' 0 104 = payload r :=
  BitVec.extractLsb'_append_eq_right

/-- The codes of R101 are 1 to 6. -/
theorem causeCode_range (c : Cause) : 1 ≤ (causeCode c).toNat ∧ (causeCode c).toNat ≤ 6 := by
  cases c <;> decide

/-- Only a FAULT has the kind 0xF. -/
theorem kindCode_eq_fault_iff {r : Response} : kindCode r = 0xF#4 ↔ ∃ c, r = .fault c := by
  cases r <;> simp [kindCode]

/-- Settles O13: each field of the word is one of `kind`, `cause`, the reserved bits or a slice of the payload. -/
theorem responseWordLayout : Obligations.ResponseWordLayout := by
  intro r
  refine ⟨extractLsb'_reserved_encodeResponse r, ?_⟩
  have htop := extractLsb'_kindCause_encodeResponse r
  have hlow := extractLsb'_payload_encodeResponse r
  have hslice {start len : Nat} (h : start + len ≤ 104) := extractLsb'_encodeResponse_of_le r h
  cases r with
  | color c =>
    have htopByte : 0x0#4 ++ 0#4 = 0x00#8 := rfl
    exact ⟨htop.trans htopByte, (hslice (by omega)).trans BitVec.extractLsb'_append_eq_right,
      (hslice (by omega)).trans BitVec.extractLsb'_append_eq_left⟩
  | discard => exact ⟨htop, hlow⟩
  | position numX numY outU outV tileId paf =>
    have htopByte : 0x2#4 ++ 0#4 = 0x20#8 := rfl
    refine ⟨htop.trans htopByte, ?_⟩
    repeat rw [hslice (by omega)]
    exact extractLsb'_payload_position numX numY outU outV tileId paf
  | ack => exact ⟨htop, hlow⟩
  | fault c =>
    exact ⟨extractLsb'_kind_encodeResponse _, extractLsb'_cause_encodeResponse _, causeCode_range c, hlow⟩

/-- Settles O14: the fields of the word are those of the response, and no reserved bit is 1. -/
theorem responseIsReadBack : Obligations.ResponseIsReadBack := by
  intro r
  simp only [decodeResponse, responseOfFields_encodeResponse, if_pos]

/-- Settles O15, by the encoding of each cause. -/
theorem faultWordsOfTheSixCauses : Obligations.FaultWordsOfTheSixCauses := ⟨rfl, rfl, rfl, rfl, rfl, rfl⟩

/-- Settles O16: the test reads the kind, and only a fault has the kind of a fault. -/
theorem faultWordsAreTheFaults : Obligations.FaultWordsAreTheFaults := by
  intro r
  rw [isFaultWord, extractLsb'_kind_encodeResponse, beq_iff_eq, kindCode_eq_fault_iff]

/-! ### The obligations: the fields a command ignores -/

/-- R89: the palette offset depends on the bank alone. -/
theorem paletteOffsetOf_congr {paf paf' : Field} (h : bankOf paf = bankOf paf') :
    paletteOffsetOf paf = paletteOffsetOf paf' := by
  rw [paletteOffsetOf, h, paletteOffsetOf]

/-- Settles O44: PREVIEW and DEBUG take neither field, and DECODE and DECODEXY take `paf` only through its bank. -/
theorem ignoredFieldsHaveNoEffect : Obligations.IgnoredFieldsHaveNoEffect := by
  intro s paf paf' tileId tileId' v u
  refine ⟨(exec_preview ..).trans (exec_preview ..).symm, (exec_debug ..).trans (exec_debug ..).symm, fun hbank => ?_⟩
  have hoffset := paletteOffsetOf_congr hbank
  rw [exec_decode, exec_decode, exec_decodexy, exec_decodexy, hoffset]
  exact ⟨rfl, rfl⟩

/-! ### The obligations: WR_TILE (R103) -/

/-- R91: a word address is 4 times its record and the word in it. -/
theorem record_add_word (waddr : BitVec 19) : 4 * recordOfWaddr waddr + wordOfWaddr waddr = waddr.toNat := by
  have hrecord : recordOfWaddr waddr = waddr.toNat / 4 := Nat.shiftRight_eq_div_pow ..
  have hword : wordOfWaddr waddr = waddr.toNat % 4 := Nat.and_two_pow_sub_one_eq_mod waddr.toNat 2
  rw [hrecord, hword]
  exact Nat.div_add_mod ..

/-- R210: a WR_GFX inside graphics memory writes its word and no other. -/
theorem exec_wrGfx_of_inside {s : State} {waddr : BitVec 19} (hin : waddr.toNat < 8 * s.params.gfxTiles) (data : Word) :
    ∃ t, exec (.wrGfx 0 waddr data) s = .next t ∧ t.params = s.params ∧
      (∀ wa, t.gfxWord wa = if wa = waddr.toNat then data else s.gfxWord wa) ∧
      t.responses = s.responses ++ [encodeResponse .ack] := by
  have hwaddr := record_add_word waddr
  rcases exec_wrGfx_cases 0 waddr data s with ⟨hmbz, _⟩ | ⟨_, hout, _⟩ | ⟨_, _, h⟩
  · exact absurd rfl hmbz
  · omega
  · exact ⟨_, h, rfl, fun wa => hwaddr ▸ State.gfxWord_writeGfx .., rfl⟩

/-- Executing a list of commands is executing the first, then the others where it left off. -/
theorem execAll_cons_of_next {i : Instr} {s t : State} (is : List Instr) (h : exec i s = .next t) :
    execAll (i :: is) s = execAll is t := by
  rw [execAll, h]

/-- Any of the commands of WR_TILE, in any order, load their words of the tile and no other. -/
theorem execAll_wrTile_words (tileId : Field) (words : Vector Word 8) (js : List (Fin 8)) (s : State)
    (htile : tileId.toNat < s.params.gfxTiles) :
    ∃ t, execAll (js.map fun j => .wrGfx 0 (BitVec.ofNat 19 (8 * tileId.toNat + j.val)) words[j]) s = .next t ∧
      (∀ j ∈ js, t.gfxWord (8 * tileId.toNat + j.val) = words[j]) ∧
      (∀ wa, (∀ j ∈ js, wa ≠ 8 * tileId.toNat + j.val) → t.gfxWord wa = s.gfxWord wa) ∧
      t.responses = s.responses ++ List.replicate js.length (encodeResponse .ack) := by
  induction js generalizing s with
  | nil => exact ⟨s, rfl, List.forall_mem_nil _, fun _ _ => rfl, (List.append_nil _).symm⟩
  | cons j js ih =>
    have hwaddr : (BitVec.ofNat 19 (8 * tileId.toNat + j.val)).toNat = 8 * tileId.toNat + j.val :=
      (BitVec.toNat_ofNat ..).trans (Nat.mod_eq_of_lt (by omega))
    obtain ⟨u, hu, hparams, hwords, hresp⟩ :=
      exec_wrGfx_of_inside (s := s) (waddr := BitVec.ofNat 19 (8 * tileId.toNat + j.val)) (by omega) words[j]
    simp only [hwaddr] at hwords
    obtain ⟨t, ht, hloaded, hkept, hacks⟩ := ih u (hparams ▸ htile)
    refine ⟨t, (execAll_cons_of_next _ hu).trans ht, fun k hk => ?_, fun wa hwa => ?_, ?_⟩
    · by_cases hlater : k ∈ js
      · exact hloaded k hlater
      · obtain rfl := (List.mem_cons.1 hk).resolve_right hlater
        rw [hkept, hwords, if_pos rfl]
        intro i hi heq
        exact hlater (Fin.ext (Nat.add_left_cancel heq) ▸ hi)
    · rw [hkept wa fun i hi => hwa i (List.mem_cons_of_mem j hi), hwords, if_neg (hwa j List.mem_cons_self)]
    · rw [hacks, hresp, List.append_assoc]
      rfl

/-- Settles O48: WR_TILE is those commands for all eight words. -/
theorem wrTileLoadsTheTile : Obligations.WrTileLoadsTheTile := by
  intro s tileId words htile
  obtain ⟨t, ht, hloaded, hkept, hacks⟩ := execAll_wrTile_words tileId words (List.finRange 8) s htile
  refine ⟨t, ht, fun j => hloaded j (List.mem_finRange j), fun wa hwa => hkept wa fun j _ => ?_, hacks⟩
  omega

end Sys2Proof.Machine

/-! PROOFS. The placement stage: the answer of PLACE (O30), the range of its numerators (O49) and the geometry of the
quad it places (O50). -/

namespace Sys2Proof.Machine

/-! ### The operands of PLACE as integers (R87, R121) -/

/-- One bit of a bit vector, read as a slice or as a Boolean. -/
theorem toNat_extractLsb'_one {w : Nat} (x : BitVec w) (i : Nat) :
    (x.extractLsb' i 1).toNat = (x.getLsbD i).toNat := by
  calc (x.extractLsb' i 1).toNat = x.toNat / 2 ^ i % 2 := by
        rw [BitVec.extractLsb'_toNat, Nat.shiftRight_eq_div_pow, pow_one]
    _ = (x.getLsbD i).toNat := by rw [← BitVec.testBit_toNat, Nat.toNat_testBit]

section
variable (corner : BitVec 2) (grid res : Field)

theorem cornerX_eq_getLsbD : cornerX corner = (corner.getLsbD 0).toNat := toNat_extractLsb'_one corner 0
theorem cornerY_eq_getLsbD : cornerY corner = (corner.getLsbD 1).toNat := toNat_extractLsb'_one corner 1

theorem cornerX_le_one : cornerX corner ≤ 1 := cornerX_eq_getLsbD corner ▸ Bool.toNat_le _
theorem cornerY_le_one : cornerY corner ≤ 1 := cornerY_eq_getLsbD corner ▸ Bool.toNat_le _

/-- R6: a grid field is a 16-bit number in two's complement. -/
theorem grid_toInt_range : -32768 ≤ grid.toInt ∧ grid.toInt ≤ 32767 :=
  ⟨grid.le_toInt, Int.le_of_lt_add_one BitVec.toInt_lt⟩

/-! ### The position and the numerators in terms of the operands (R122 to R124) -/

theorem placeX_eq : placeX corner grid = 8 * (cornerX corner : ℤ) + grid.toInt := rfl
theorem placeY_eq : placeY corner grid = 8 * (cornerY corner : ℤ) - grid.toInt - 8 := rfl

theorem placeNumX_eq : placeNumX res corner grid = 4 * (8 * (cornerX corner : ℤ) + grid.toInt) - res.toNat := rfl
theorem placeNumY_eq : placeNumY res corner grid = 4 * (8 * (cornerY corner : ℤ) - grid.toInt - 8) + res.toNat := rfl

/-! ### The range of the numerators (R124) -/

variable {res}

theorem placeNumX_range (h : res ≠ 0#16) :
    -196607 ≤ placeNumX res corner grid ∧ placeNumX res corner grid ≤ 131099 := by
  have hcorner := cornerX_le_one corner
  have hgrid := grid_toInt_range grid
  have hpos := BitVec.toNat_pos_of_ne_zero h
  have hres := res.isLt
  rw [placeNumX_eq]
  omega

theorem placeNumY_range (h : res ≠ 0#16) :
    -131099 ≤ placeNumY res corner grid ∧ placeNumY res corner grid ≤ 196607 := by
  have hcorner := cornerY_le_one corner
  have hgrid := grid_toInt_range grid
  have hpos := BitVec.toNat_pos_of_ne_zero h
  have hres := res.isLt
  rw [placeNumY_eq]
  omega

end

/-- R124: a numerator field of POSITION holds in two's complement every integer of at most 196607 in magnitude. -/
theorem toInt_ofInt_numerator {n : ℤ} (hlow : -196607 ≤ n) (hhigh : n ≤ 196607) : (BitVec.ofInt 20 n).toInt = n :=
  BitVec.toInt_ofInt_eq_self (by omega) (by omega) (by omega)

/-! ### What PLACE answers in each of its cases (R120) -/

section
variable {s : State} {corner : BitVec 2} {paf tileId gridY gridX : Field}

/-- R126. -/
theorem placeResponse_of_zero (h : s.resX = 0#16 ∨ s.resY = 0#16) :
    placeResponse s corner paf tileId gridY gridX = .error .resZero := if_pos h

/-- R127, R128. -/
theorem placeResponse_of_ne_zero (hx : s.resX ≠ 0#16) (hy : s.resY ≠ 0#16) :
    placeResponse s corner paf tileId gridY gridX =
      .ok (.position (BitVec.ofInt 20 (placeNumX s.resX corner gridX)) (BitVec.ofInt 20 (placeNumY s.resY corner gridY))
        (localUv (cornerX corner)) (localUv (cornerY corner)) tileId paf) :=
  if_neg (not_or.2 ⟨hx, hy⟩)

end

/-! ### The obligations -/

/-- Settles O30: the word is that of the command (O1), and the two branches of the response are those of the statement,
with the corner's bits read as Booleans. -/
theorem placeAnswersThePosition : Obligations.PlaceAnswersThePosition := by
  rintro s corner paf tileId gridY gridX lx ly rfl rfl
  refine ⟨decodeOfEncodeIsTheCommand (.place corner paf tileId gridY gridX) rfl, fun hx hy => ?_, fun hzero => ?_⟩
  · rw [exec_place, placeResponse_of_ne_zero hx hy, State.conclude_ok, placeNumX_eq, placeNumY_eq,
      cornerX_eq_getLsbD, cornerY_eq_getLsbD, localUv, localUv]
  · rw [exec_place, placeResponse_of_zero hzero, State.conclude_error, State.raise]

/-- Settles O49: both ranges lie within what 20 bits hold. -/
theorem placementNumeratorsAreExact : Obligations.PlacementNumeratorsAreExact := by
  intro resX resY corner gridX gridY hx hy
  obtain ⟨hlowX, hhighX⟩ := placeNumX_range corner gridX hx
  obtain ⟨hlowY, hhighY⟩ := placeNumY_range corner gridY hy
  exact ⟨⟨hlowX, hhighX⟩, ⟨hlowY, hhighY⟩, toInt_ofInt_numerator hlowX (by omega),
    toInt_ofInt_numerator (by omega) hhighY⟩

/-- Settles O50: position and numerators are linear in the grid field and in the one bit of the corner they use. -/
theorem placedQuadGeometry : Obligations.PlacedQuadGeometry := by
  refine ⟨fun corner gridX gridY => ?spans, ⟨rfl, rfl⟩, fun resX resY corner g g' => ?gridStep,
    fun resX resY c c' g => ?oneBit⟩
  case spans =>
    rw [placeX_eq, placeY_eq, cornerX_eq_getLsbD, cornerY_eq_getLsbD]
    constructor <;> ring
  case gridStep =>
    simp only [placeNumX_eq, placeNumY_eq]
    constructor <;> ring
  case oneBit =>
    simp only [placeNumX_eq, placeNumY_eq, cornerX_eq_getLsbD, cornerY_eq_getLsbD]
    exact ⟨fun h => by rw [h], fun h => by rw [h]⟩

end Sys2Proof.Machine

/-! PROOFS. The sub-block uv_to_tile_coord: its legal domain and its slices (O17), and the floor formulas of the rationals
the UV fields denote (O18). -/

namespace Sys2Proof.Machine

/-! ### Columns and rows as floors of rationals (R141, R191) -/

/-- A field value over `2^15`, scaled to a grid of `2^(15 - shift)` cells, has the shifted value as its floor. -/
theorem floor_div_mul_grid {shift : Nat} (hshift : shift ≤ 15) (n : Nat) :
    ⌊(n : ℚ) / 32768 * 2 ^ (15 - shift)⌋ = (n >>> shift : Nat) := by
  have hscale : (2 : ℚ) ^ (15 - shift) * 2 ^ shift = 32768 := by
    rw [← pow_add, Nat.sub_add_cancel hshift]
    norm_num
  have hquotient : (n : ℚ) / 32768 * 2 ^ (15 - shift) = (n : ℚ) / (2 ^ shift : Nat) := by
    rw [← hscale]
    push_cast
    field_simp
  rw [hquotient, Rat.floor_natCast_div_natCast, Nat.shiftRight_eq_div_pow, Int.natCast_div]

theorem gridColumn_eq_floor {shift : Nat} (hshift : shift ≤ 15) (u : Field) :
    (gridColumn shift u : ℤ) = ⌊(u.toNat : ℚ) / 32768 * 2 ^ (15 - shift)⌋ :=
  (floor_div_mul_grid hshift u.toNat).symm

/-- The vertical flip: the subtraction `0x8000 - V` of naturals is that of rationals, because `V ≤ 0x8000`. -/
theorem gridRow_eq_floor {shift : Nat} (hshift : shift ≤ 15) {v : Field} (hv : v.toNat ≤ 0x8000) :
    (gridRow shift v : ℤ) = ⌊(1 - (v.toNat : ℚ) / 32768) * 2 ^ (15 - shift)⌋ := by
  have hflip : 1 - (v.toNat : ℚ) / 32768 = ((0x8000 - v.toNat : Nat) : ℚ) / 32768 := by
    rw [Nat.cast_sub hv]
    ring
  rw [hflip, floor_div_mul_grid hshift, gridRow]

/-! ### What uv_to_tile_coord answers in each of its cases (R140) -/

section
variable {u v : Field}

theorem uvToTileCoord_of_rangeErr (h : rangeErr u v = true) : uvToTileCoord u v = .error .coordRange := if_pos h

theorem uvToTileCoord_of_not_rangeErr (h : rangeErr u v = false) :
    uvToTileCoord u v = .ok (BitVec.ofNat 3 (gridColumn 12 u), BitVec.ofNat 3 (gridRow 12 v)) :=
  if_neg (Bool.eq_false_iff.1 h)

theorem uvToTileCoord_eq_ok_iff {p : PixelCoord} : uvToTileCoord u v = .ok p ↔
    rangeErr u v = false ∧ (BitVec.ofNat 3 (gridColumn 12 u), BitVec.ofNat 3 (gridRow 12 v)) = p := by
  cases h : rangeErr u v with
  | true => simp [uvToTileCoord_of_rangeErr h]
  | false => simp [uvToTileCoord_of_not_rangeErr h]

/-- R144: `range_err` is low exactly on the legal domain. -/
theorem rangeErr_eq_false_iff_legal :
    rangeErr u v = false ↔ u.toNat ≤ 0x7FFF ∧ 1 ≤ v.toNat ∧ v.toNat ≤ 0x8000 :=
  (rangeErr_eq_false_iff u v).trans (and_congr_left' Nat.lt_succ_iff)

/-- R140: the result is a pixel of the tile, so that 3 bits hold column and row exactly. -/
theorem toNat_of_uvToTileCoord_eq_ok {p : PixelCoord} (h : uvToTileCoord u v = .ok p) :
    p.1.toNat = gridColumn 12 u ∧ p.2.toNat = gridRow 12 v := by
  obtain ⟨hlegal, rfl⟩ := uvToTileCoord_eq_ok_iff.1 h
  obtain ⟨hu, hv, hv'⟩ := rangeErr_eq_false_iff_legal.1 hlegal
  have hcolumn : gridColumn 12 u < 2 ^ 3 := by
    rw [gridColumn, Nat.shiftRight_eq_div_pow]
    omega
  have hrow : gridRow 12 v < 2 ^ 3 := by
    rw [gridRow, uvOne, Nat.shiftRight_eq_div_pow]
    omega
  exact ⟨(BitVec.toNat_ofNat ..).trans (Nat.mod_eq_of_lt hcolumn),
    (BitVec.toNat_ofNat ..).trans (Nat.mod_eq_of_lt hrow)⟩

end

/-! ### Columns and rows as slices of words (R144) -/

theorem ofNat_gridColumn (shift n : Nat) (u : Field) : BitVec.ofNat n (gridColumn shift u) = u.extractLsb' shift n := rfl

/-- The 16-bit subtraction `0x8000 - V` does not wrap. -/
theorem ofNat_gridRow (shift n : Nat) {v : Field} (hv : v.toNat ≤ 0x8000) :
    BitVec.ofNat n (gridRow shift v) = (0x8000#16 - v).extractLsb' shift n := by
  have hsub : (0x8000#16 - v).toNat = uvOne - v.toNat := BitVec.toNat_sub_of_le hv
  rw [gridRow, ← hsub, BitVec.extractLsb']

/-! ### The obligations -/

/-- Settles O17: `range_err` decides between the two answers, and it is low exactly on the legal domain. -/
theorem uvCoordinateOnTheLegalDomain : Obligations.UvCoordinateOnTheLegalDomain := by
  refine fun u v => ⟨?exactly, fun hlegal => ?slices, fun hillegal => ?fault⟩
  case exactly =>
    simp only [uvToTileCoord_eq_ok_iff, rangeErr_eq_false_iff_legal, exists_and_left, exists_eq', and_true]
  case slices =>
    have ⟨_, _, hv⟩ := hlegal
    rw [uvToTileCoord_of_not_rangeErr (rangeErr_eq_false_iff_legal.2 hlegal), ofNat_gridColumn, ofNat_gridRow 12 3 hv]
  case fault =>
    rw [← rangeErr_eq_false_iff_legal, Bool.not_eq_false] at hillegal
    exact uvToTileCoord_of_rangeErr hillegal

/-- Settles O18: a coordinate is column and row of the grid of 8 by 8 pixels, which are the floors. -/
theorem uvCoordinateIsTheFloor : Obligations.UvCoordinateIsTheFloor := by
  intro u v p h
  obtain ⟨hcolumn, hrow⟩ := toNat_of_uvToTileCoord_eq_ok h
  obtain ⟨_, _, hv⟩ := rangeErr_eq_false_iff_legal.1 (uvToTileCoord_eq_ok_iff.1 h).1
  have hcells : (2 : ℚ) ^ (15 - 12) = 8 := by norm_num
  rw [hcolumn, hrow, gridColumn_eq_floor (by decide), gridRow_eq_floor (by decide) hv, hcells]
  exact ⟨rfl, rfl⟩

end Sys2Proof.Machine

/-! PROOFS. The sub-block tile_decoder: the line of a scanline (O20), the bits of an index (O21, O22) and the tiles that
tables of indices and single bits make (O23, O24). -/

namespace Sys2Proof.Machine

/-! ### The line of a scanline (R152) -/

theorem extractLsb'_zero_ushiftRight {w : Nat} (x : BitVec w) (k len : Nat) :
    (x >>> k).extractLsb' 0 len = x.extractLsb' k len := by
  rw [BitVec.extractLsb', BitVec.extractLsb', BitVec.toNat_ushiftRight, Nat.shiftRight_zero]

/-- R152: the mask of 16 bits changes nothing in the half it keeps. -/
theorem recordLine_eq_half (part : Record) (py : BitVec 3) :
    recordLine part py = (recordWord part (py.toNat / 2)).extractLsb' (16 * (py.toNat % 2)) 16 := by
  have hmask : (0xFFFF#32).extractLsb' 0 16 = BitVec.allOnes 16 := rfl
  rw [recordLine, Nat.and_one_is_mod, Nat.shiftRight_eq_div_pow, pow_one, BitVec.extractLsb'_and, hmask,
    BitVec.and_allOnes, extractLsb'_zero_ushiftRight]

theorem recordLine_eq_slice (part : Record) (py : BitVec 3) :
    recordLine part py = part.extractLsb' (16 * py.toNat) 16 := by
  have hstart : 32 * (py.toNat / 2) + 16 * (py.toNat % 2) = 16 * py.toNat := by omega
  refine BitVec.eq_of_getLsbD_eq fun i hi => ?_
  have hinside : 16 * (py.toNat % 2) + i < 32 := by omega
  rw [recordLine_eq_half, recordWord]
  simp only [BitVec.getLsbD_extractLsb', hinside, decide_true, Bool.true_and, ← Nat.add_assoc, hstart]

theorem getLsbD_recordLine (part : Record) (py : BitVec 3) {i : Nat} (hi : i < 16) :
    (recordLine part py).getLsbD i = part.getLsbD (16 * py.toNat + i) := by
  rw [recordLine_eq_slice, BitVec.getLsbD_extractLsb', decide_eq_true hi, Bool.true_and]

/-! ### The bits of a colour index (R153) -/

/-- R153: `(line >> n) & 1` has one bit, bit `n` of the line. -/
theorem getLsbD_lineBit (line : BitVec 16) (n i : Nat) :
    (lineBit line n).getLsbD i = (decide (i = 0) && line.getLsbD n) := by
  cases i with
  | zero => simp [lineBit]
  | succ i => simp [lineBit, BitVec.getLsbD_one]

theorem getLsbD_unpack_lines (part1 part2 : Record) (px py : BitVec 3) :
    (unpack part1 part2 px py).getLsbD 0 = (recordLine part1 py).getLsbD (7 - px.toNat) ∧
    (unpack part1 part2 px py).getLsbD 1 = (recordLine part1 py).getLsbD (15 - px.toNat) ∧
    (unpack part1 part2 px py).getLsbD 2 = (recordLine part2 py).getLsbD (7 - px.toNat) ∧
    (unpack part1 part2 px py).getLsbD 3 = (recordLine part2 py).getLsbD (15 - px.toNat) := by
  refine ⟨?_, ?_, ?_, ?_⟩ <;>
    simp only [unpack, BitVec.getLsbD_or, BitVec.getLsbD_shiftLeft, getLsbD_lineBit] <;> simp

/-- R155: bit `p` of the index stands in record `p >> 1` of the two, numbered 0 and 1. -/
theorem getLsbD_unpack (part : Nat → Record) (px py : BitVec 3) {p : Nat} (hp : p < 4) :
    (unpack (part 0) (part 1) px py).getLsbD p =
      (part (p / 2)).getLsbD (16 * py.toNat + 8 * (p % 2) + (7 - px.toNat)) := by
  obtain ⟨h0, h1, h2, h3⟩ := getLsbD_unpack_lines (part 0) (part 1) px py
  have hhigh : 15 - px.toNat = 8 + (7 - px.toNat) := by omega
  rw [getLsbD_recordLine _ _ (by omega)] at h0 h1 h2 h3
  rw [hhigh, ← Nat.add_assoc] at h1 h3
  match p, hp with
  | 0, _ => exact h0
  | 1, _ => exact h1
  | 2, _ => exact h2
  | 3, _ => exact h3

/-! ### The bits of a record in the words and bytes of graphics memory (R34, R53) -/

/-- A value of four equal parts, the part 0 in the low bits: its bit `n*k + i` is bit `i` of part `k`. -/
theorem getLsbD_append_four {n : Nat} (part : Nat → BitVec n) {k i : Nat} (hk : k < 4) (hi : i < n) :
    (part 3 ++ part 2 ++ part 1 ++ part 0).getLsbD (n * k + i) = (part k).getLsbD i := by
  simp only [BitVec.getLsbD_append]
  match k, hk with
  | 0, _ => rw [if_pos (by omega), Nat.mul_zero, Nat.zero_add]
  | 1, _ => rw [if_neg (by omega), if_pos (by omega)]; congr 1; omega
  | 2, _ => rw [if_neg (by omega), if_neg (by omega), if_pos (by omega)]; congr 1; omega
  | 3, _ => rw [if_neg (by omega), if_neg (by omega), if_neg (by omega)]; congr 1; omega

theorem State.getLsbD_gfxRecord (s : State) (r : Nat) {k i : Nat} (hk : k < 4) (hi : i < 32) :
    (s.gfxRecord r).getLsbD (32 * k + i) = (s.gfxWord (4 * r + k)).getLsbD i :=
  getLsbD_append_four (fun k => s.gfxWord (4 * r + k)) hk hi

theorem State.getLsbD_gfxWord (s : State) (wa : Nat) {k i : Nat} (hk : k < 4) (hi : i < 8) :
    (s.gfxWord wa).getLsbD (8 * k + i) = (s.gfxByte (4 * wa + k)).getLsbD i :=
  getLsbD_append_four (fun k => s.gfxByte (4 * wa + k)) hk hi

/-! ### The 256 bits of a tile and the 4 × 8 × 8 bits of its indices (R155, R156) -/

/-- R155: the bit of a tile that is bit `p` of the index of the pixel at column `px`, row `py`. -/
def tileBit (px py : BitVec 3) (p : Nat) : Nat := 128 * (p / 2) + 16 * py.toNat + 8 * (p % 2) + (7 - px.toNat)

/-- The column of the pixel that bit `n` of a tile belongs to. -/
def columnOfBit (n : Nat) : BitVec 3 := BitVec.ofNat 3 (7 - n % 8)

/-- The row of the pixel that bit `n` of a tile belongs to. -/
def rowOfBit (n : Nat) : BitVec 3 := BitVec.ofNat 3 (n / 16)

/-- The bitplane that bit `n` of a tile belongs to. -/
def planeOfBit (n : Nat) : Nat := 2 * (n / 128) + n / 8 % 2

theorem tileBit_lt (px py : BitVec 3) {p : Nat} (hp : p < 4) : tileBit px py p < 256 := by
  rw [tileBit]
  omega

theorem planeOfBit_lt {n : Nat} (hn : n < 256) : planeOfBit n < 4 := by
  rw [planeOfBit]
  omega

/-- R156: each factor of the position ranges over exactly its digit. -/
theorem tileBit_eq_iff {px py : BitVec 3} {p n : Nat} :
    tileBit px py p = n ↔ (px.toNat = 7 - n % 8 ∧ py.toNat = n / 16 % 8) ∧ p = planeOfBit n := by
  rw [tileBit, planeOfBit]
  omega

theorem toNat_columnOfBit (n : Nat) : (columnOfBit n).toNat = 7 - n % 8 :=
  (BitVec.toNat_ofNat ..).trans (Nat.mod_eq_of_lt (by omega))

theorem toNat_rowOfBit (n : Nat) : (rowOfBit n).toNat = n / 16 % 8 := BitVec.toNat_ofNat ..

theorem tileBit_ofBit (n : Nat) : tileBit (columnOfBit n) (rowOfBit n) (planeOfBit n) = n :=
  tileBit_eq_iff.2 ⟨⟨toNat_columnOfBit n, toNat_rowOfBit n⟩, rfl⟩

theorem ofBit_tileBit (px py : BitVec 3) (p : Nat) :
    columnOfBit (tileBit px py p) = px ∧ rowOfBit (tileBit px py p) = py ∧ planeOfBit (tileBit px py p) = p := by
  obtain ⟨⟨hpx, hpy⟩, hplane⟩ := tileBit_eq_iff.1 (Eq.refl (tileBit px py p))
  exact ⟨BitVec.eq_of_toNat_eq ((toNat_columnOfBit _).trans hpx.symm),
    BitVec.eq_of_toNat_eq ((toNat_rowOfBit _).trans hpy.symm), hplane.symm⟩

/-! ### The indices of a tile -/

theorem getLsbD_unpack_tile (T : BitVec 256) (px py : BitVec 3) {p : Nat} (hp : p < 4) :
    (unpack (T.extractLsb' 0 128) (T.extractLsb' 128 128) px py).getLsbD p = T.getLsbD (tileBit px py p) := by
  have hinside : 16 * py.toNat + 8 * (p % 2) + (7 - px.toNat) < 128 := by omega
  rw [getLsbD_unpack (fun k => T.extractLsb' (128 * k) 128) px py hp, BitVec.getLsbD_extractLsb',
    decide_eq_true hinside, Bool.true_and, tileBit]
  simp only [Nat.add_assoc]

/-- R156: a tile is determined by its 64 indices. -/
theorem tile_eq_of_unpack_eq {T T' : BitVec 256}
    (h : ∀ px py, unpack (T.extractLsb' 0 128) (T.extractLsb' 128 128) px py =
      unpack (T'.extractLsb' 0 128) (T'.extractLsb' 128 128) px py) : T = T' := by
  refine BitVec.eq_of_getLsbD_eq fun n hn => ?_
  rw [← tileBit_ofBit n, ← getLsbD_unpack_tile T _ _ (planeOfBit_lt hn), h,
    getLsbD_unpack_tile T' _ _ (planeOfBit_lt hn)]

/-- R156: the tile built from a table of indices. -/
def tileOfTable (idx : BitVec 3 → BitVec 3 → ColorIndex) : BitVec 256 :=
  BitVec.ofFnLE fun n => (idx (rowOfBit n) (columnOfBit n)).getLsbD (planeOfBit n)

theorem unpack_tileOfTable (idx : BitVec 3 → BitVec 3 → ColorIndex) (px py : BitVec 3) :
    unpack ((tileOfTable idx).extractLsb' 0 128) ((tileOfTable idx).extractLsb' 128 128) px py = idx py px := by
  refine BitVec.eq_of_getLsbD_eq fun p hp => ?_
  obtain ⟨hcolumn, hrow, hplane⟩ := ofBit_tileBit px py p
  rw [getLsbD_unpack_tile _ px py hp, tileOfTable, BitVec.getLsbD_ofFnLE, dif_pos (tileBit_lt px py hp), hcolumn, hrow,
    hplane]

/-- R155: a tile of one bit lights the pixel of that bit alone, in the bitplane of that bit. -/
theorem unpack_singleBit (n : Nat) (px py : BitVec 3) :
    unpack ((BitVec.ofNat 256 (2 ^ n)).extractLsb' 0 128) ((BitVec.ofNat 256 (2 ^ n)).extractLsb' 128 128) px py =
      if px.toNat = 7 - n % 8 ∧ py.toNat = n / 16 % 8 then BitVec.ofNat 4 (2 ^ planeOfBit n) else 0#4 := by
  refine BitVec.eq_of_getLsbD_eq fun p hp => ?_
  rw [getLsbD_unpack_tile _ px py hp, BitVec.getLsbD_ofNat, Nat.testBit_two_pow, decide_eq_true (tileBit_lt px py hp),
    Bool.true_and]
  split
  case isTrue hpixel =>
    rw [BitVec.getLsbD_ofNat, Nat.testBit_two_pow, decide_eq_true hp, Bool.true_and, decide_eq_decide, eq_comm,
      tileBit_eq_iff, and_iff_right hpixel, eq_comm]
  case isFalse hpixel =>
    rw [BitVec.getLsbD_zero, decide_eq_false_iff_not, eq_comm, tileBit_eq_iff]
    exact fun h => hpixel h.1

/-- R157 (b). -/
theorem unpack_eq_zero_of_bits {part1 part2 : Record} {px py : BitVec 3}
    (h0 : (recordLine part1 py).getLsbD (7 - px.toNat) = false)
    (h1 : (recordLine part1 py).getLsbD (15 - px.toNat) = false)
    (h2 : (recordLine part2 py).getLsbD (7 - px.toNat) = false)
    (h3 : (recordLine part2 py).getLsbD (15 - px.toNat) = false) :
    unpack part1 part2 px py = 0#4 := by
  obtain ⟨e0, e1, e2, e3⟩ := getLsbD_unpack_lines part1 part2 px py
  refine BitVec.eq_of_getLsbD_eq fun p hp => ?_
  match p, hp with
  | 0, _ => exact e0.trans h0
  | 1, _ => exact e1.trans h1
  | 2, _ => exact e2.trans h2
  | 3, _ => exact e3.trans h3

/-! ### The obligations -/

/-- Settles O20: the half that `py & 1` selects, and its place in the record. -/
theorem lineIsTheScanlineSlice : Obligations.LineIsTheScanlineSlice := by
  refine fun part py => ⟨recordLine_eq_slice part py, ?_⟩
  rw [recordLine_eq_half, recordWord]
  obtain heven | hodd := Nat.mod_two_eq_zero_or_one py.toNat
  · rw [if_pos heven, heven]
  · rw [if_neg (by omega), hodd]

/-- Settles O21: each of the four terms that `unpack` joins supplies one bit. -/
theorem indexBitsComeFromTheTwoLines : Obligations.IndexBitsComeFromTheTwoLines := getLsbD_unpack_lines

/-- Settles O22: the bit of the record, read in its word and in its byte. -/
theorem everyTileBitHasItsMeaning : Obligations.EveryTileBitHasItsMeaning := by
  refine ⟨fun T px py p hp => getLsbD_unpack_tile T px py hp, fun s t px py p hp => ?_⟩
  have hrecord : 16 * py.toNat + 8 * (p % 2) + (7 - px.toNat) =
      32 * (py.toNat / 2) + (16 * (py.toNat % 2) + 8 * (p % 2) + (7 - px.toNat)) := by omega
  have hword : 16 * (py.toNat % 2) + 8 * (p % 2) + (7 - px.toNat) =
      8 * (2 * (py.toNat % 2) + p % 2) + (7 - px.toNat) := by omega
  have hbyte : 4 * (4 * (2 * t + p / 2) + py.toNat / 2) + (2 * (py.toNat % 2) + p % 2) =
      32 * t + 16 * (p / 2) + 2 * py.toNat + p % 2 := by omega
  have hbitOfWord : (unpack (s.gfxRecord (2 * t)) (s.gfxRecord (2 * t + 1)) px py).getLsbD p =
      (s.gfxWord (4 * (2 * t + p / 2) + py.toNat / 2)).getLsbD (16 * (py.toNat % 2) + 8 * (p % 2) + (7 - px.toNat)) :=
    (getLsbD_unpack (fun k => s.gfxRecord (2 * t + k)) px py hp).trans
      (hrecord ▸ s.getLsbD_gfxRecord _ (by omega) (by omega))
  refine ⟨hbitOfWord, hbitOfWord.trans ?_⟩
  rw [hword, s.getLsbD_gfxWord _ (by omega) (by omega), hbyte]

/-- Settles O23: the tile built from the table has its indices, and no other has. -/
theorem everyPixelTableIsExactlyOneTile : Obligations.EveryPixelTableIsExactlyOneTile := fun idx =>
  ⟨tileOfTable idx, unpack_tileOfTable idx,
    fun _ hT => tile_eq_of_unpack_eq fun px py => (hT px py).trans (unpack_tileOfTable idx px py).symm⟩

/-- Settles O24: the two tiles of R157 (d) are the single-bit tiles of the bits 7 and 0. -/
theorem zeroAndSingleBitTiles : Obligations.ZeroAndSingleBitTiles := by
  refine ⟨fun part1 part2 px py => unpack_eq_zero_of_bits, fun px py => ?zeros, fun px py => ?leftmost,
    fun px py => ?rightmost, fun n _ => unpack_singleBit n⟩
  case zeros =>
    have hbit (i : Nat) : (recordLine 0#128 py).getLsbD i = false := by
      rw [recordLine_eq_slice, BitVec.extractLsb'_zero, BitVec.getLsbD_zero]
    exact unpack_eq_zero_of_bits (hbit _) (hbit _) (hbit _) (hbit _)
  case leftmost => simpa [planeOfBit, ← BitVec.toNat_inj] using unpack_singleBit 7 px py
  case rightmost => simpa [planeOfBit, ← BitVec.toNat_inj] using unpack_singleBit 0 px py

end Sys2Proof.Machine

/-! PROOFS. The sub-block palette_resolver: the palette address of a bank and an index (O25). -/

namespace Sys2Proof.Machine

/-! ### The palette address (R172) -/

/-- R89: the mask `0xFF` keeps the bank. -/
theorem toNat_and_mask_eq_bankOf (paf : Field) : (paf &&& 0xFF#16).toNat = (bankOf paf).toNat := by
  rw [bankOf, BitVec.extractLsb'_toNat, Nat.shiftRight_zero, BitVec.toNat_and]
  exact Nat.and_two_pow_sub_one_eq_mod paf.toNat 8

/-- A bank starts at a multiple of 16 and an index is below 16, so no carry passes from the index into the bank. -/
theorem toNat_bank_append_index (bank : BitVec 8) (index : ColorIndex) :
    (bank ++ index).toNat = index.toNat + bank.toNat * bankSize := by
  rw [BitVec.toNat_append, ← Nat.shiftLeft_add_eq_or_of_lt index.isLt, Nat.shiftLeft_eq, Nat.add_comm]

/-! ### The obligation -/

/-- Settles O25: the address is the concatenation, so that 12 bits bound it. -/
theorem paletteAddressIsBankAndIndex : Obligations.PaletteAddressIsBankAndIndex := by
  intro paf index
  have haddr : (bankOf paf ++ index).toNat = index.toNat + paletteOffsetOf paf := toNat_bank_append_index ..
  refine ⟨?masked, rfl, haddr.symm, ?bound⟩
  case masked => rw [toNat_and_mask_eq_bankOf, paletteOffsetOf]
  case bound => exact haddr ▸ Nat.le_of_lt_succ (bankOf paf ++ index).isLt

end Sys2Proof.Machine

/-! PROOFS. The pixel commands DECODE and DECODEXY: the five outcomes of a pixel command (O26, O27), the agreement of
the two (O40), the tile of zero words (O43) and what a pixel's response depends on (O45). -/

namespace Sys2Proof.Machine

/-! ### The coordinate of a pixel command (R140, R181) -/

/-- R144: the coordinate exists on the legal domain, and its 3 bits are the low bits of column and row. -/
theorem uvToTileCoord_eq_ok_iff_legal {u v : Field} {p : PixelCoord} : uvToTileCoord u v = .ok p ↔
    (u.toNat < 0x8000 ∧ 0 < v.toNat ∧ v.toNat ≤ 0x8000) ∧
      p.1.toNat = u.toNat / 4096 % 8 ∧ p.2.toNat = (0x8000 - v.toNat) / 4096 % 8 := by
  rw [uvToTileCoord_eq_ok_iff, rangeErr_eq_false_iff, eq_comm, Prod.ext_iff, ← BitVec.toNat_inj, ← BitVec.toNat_inj,
    BitVec.toNat_ofNat, BitVec.toNat_ofNat, gridColumn, gridRow, Nat.shiftRight_eq_div_pow, Nat.shiftRight_eq_div_pow]

theorem uvToTileCoord_of_not_legal {u v : Field} (h : ¬ (u.toNat < 0x8000 ∧ 0 < v.toNat ∧ v.toNat ≤ 0x8000)) :
    uvToTileCoord u v = .error .coordRange := by
  rw [← rangeErr_eq_false_iff, Bool.not_eq_false] at h
  exact uvToTileCoord_of_rangeErr h

theorem xyToTileCoord_of_legal {x y : Field} (h : x.toNat ≤ 7 ∧ y.toNat ≤ 7) :
    xyToTileCoord x y = .ok (BitVec.ofNat 3 x.toNat, BitVec.ofNat 3 y.toNat) := if_neg (by omega)

theorem xyToTileCoord_of_not_legal {x y : Field} (h : ¬ (x.toNat ≤ 7 ∧ y.toNat ≤ 7)) :
    xyToTileCoord x y = .error .coordRange := if_pos (by omega)

/-- R86, R181: the coordinate exists where both fields are at most 7, and its 3 bits are the fields' low bits. -/
theorem xyToTileCoord_eq_ok_iff {x y : Field} {p : PixelCoord} : xyToTileCoord x y = .ok p ↔
    (x.toNat ≤ 7 ∧ y.toNat ≤ 7) ∧ p.1.toNat = x.toNat % 8 ∧ p.2.toNat = y.toNat % 8 := by
  by_cases h : x.toNat ≤ 7 ∧ y.toNat ≤ 7
  · rw [xyToTileCoord_of_legal h, Except.ok.injEq, and_iff_right h, eq_comm, Prod.ext_iff, ← BitVec.toNat_inj,
      ← BitVec.toNat_inj, BitVec.toNat_ofNat, BitVec.toNat_ofNat]
  · simp only [xyToTileCoord_of_not_legal h, reduceCtorEq, h, false_and]

/-- R182: column and row of a legal UV point are the fields of the DECODEXY that names its pixel. -/
theorem xyToTileCoord_of_legal_uv {u v : Field} (h : u.toNat < 0x8000 ∧ 0 < v.toNat ∧ v.toNat ≤ 0x8000) :
    xyToTileCoord (u >>> 12) ((0x8000#16 - v) >>> 12) = uvToTileCoord u v := by
  have ⟨_, _, hv⟩ := h
  have hsub : (0x8000#16 - v).toNat = 0x8000 - v.toNat := BitVec.toNat_sub_of_le hv
  have hx : (u >>> 12).toNat = gridColumn 12 u := BitVec.toNat_ushiftRight ..
  have hy : ((0x8000#16 - v) >>> 12).toNat = gridRow 12 v := by rw [BitVec.toNat_ushiftRight, hsub, gridRow]
  have hcoord := uvToTileCoord_of_not_rangeErr ((rangeErr_eq_false_iff u v).2 h)
  obtain ⟨hcolumn, hrow⟩ := toNat_of_uvToTileCoord_eq_ok hcoord
  rw [hcoord, xyToTileCoord_of_legal (by omega), hx, hy]

/-! ### The records of a tile (R34, R150) -/

theorem State.gfxRecord_congr {s₁ s₂ : State} {r : Nat} (h : ∀ k < 4, s₁.gfxWord (4 * r + k) = s₂.gfxWord (4 * r + k)) :
    s₁.gfxRecord r = s₂.gfxRecord r := by
  have hlow : s₁.gfxWord (4 * r) = s₂.gfxWord (4 * r) := h 0 (by decide)
  rw [State.gfxRecord, hlow, h 1 (by decide), h 2 (by decide), h 3 (by decide), State.gfxRecord]

theorem State.gfxRecord_eq_zero {s : State} {r : Nat} (h : ∀ k < 4, s.gfxWord (4 * r + k) = 0#32) :
    s.gfxRecord r = 0#128 := by
  have hlow : s.gfxWord (4 * r) = 0#32 := h 0 (by decide)
  rw [State.gfxRecord, hlow, h 1 (by decide), h 2 (by decide), h 3 (by decide)]
  rfl

/-- R52: the eight words of a tile are those of its two records. -/
theorem forall_word_of_tile {P : Nat → Prop} {tileId : Nat} (h : ∀ j < 8, P (8 * tileId + j)) :
    (∀ k < 4, P (4 * (2 * tileId) + k)) ∧ ∀ k < 4, P (4 * (2 * tileId + 1) + k) := by
  refine ⟨fun k hk => ?_, fun k hk => ?_⟩
  · have hword := h k (by omega)
    rwa [show 8 * tileId + k = 4 * (2 * tileId) + k by omega] at hword
  · have hword := h (4 + k) (by omega)
    rwa [show 8 * tileId + (4 + k) = 4 * (2 * tileId + 1) + k by omega] at hword

/-! ### What a pixel command answers (R150, R170, R180) -/

/-- R89, R172: the palette offset is the low byte of `paf`, times 16. -/
theorem paletteOffsetOf_eq_mod (paf : Field) : paletteOffsetOf paf = paf.toNat % 256 * 16 := by
  rw [paletteOffsetOf, ← toNat_and_mask_eq_bankOf, BitVec.toNat_and]
  exact congrArg (· * 16) (Nat.and_two_pow_sub_one_eq_mod paf.toNat 8)

/-- R170: the three answers of the resolver, in the order of its tests. -/
theorem resolve_eq (s : State) (index : ColorIndex) (offset : Nat) : resolve s index offset =
    if index = 0#4 then .ok .discard
    else if s.params.palEntries ≤ index.toNat + offset then .error .palRange
    else .ok (.color (s.palEntry (index.toNat + offset))) := by
  rcases resolve_cases s index offset with ⟨hzero, h⟩ | ⟨hne, hout, h⟩ | ⟨hne, hin, h⟩
  · rw [h, if_pos hzero]
  · rw [h, if_neg hne, if_pos hout]
  · rw [h, if_neg hne, if_neg (not_le.2 hin)]

/-- R150, R226: a pixel of a tile in range is resolved with the index of its two records. -/
theorem pixelResponse_of_tile_inside {s : State} {tileId : Nat} (h : tileId < s.params.gfxTiles) (p : PixelCoord)
    (offset : Nat) : pixelResponse s (.ok p) tileId offset =
      resolve s (unpack (s.gfxRecord (2 * tileId)) (s.gfxRecord (2 * tileId + 1)) p.1 p.2) offset := by
  rw [pixelResponse_ok, if_neg (not_le.2 h), Nat.mul_comm tileId 2]

/-- The five outcomes of a pixel command (R180, R181), for the domain `legal` of its coordinate, its tile, the index of
its pixel and the palette address of that index. The conditions exclude each other in the order of the tests (R226). -/
structure PixelOutcomes (i : Instr) (s : State) (legal : Prop) (tileId : Nat) (index : ColorIndex) (addr : Nat) :
    Prop where
  color : legal → tileId < s.params.gfxTiles → index ≠ 0#4 → addr < s.params.palEntries →
    exec i s = .next (s.respond (.color (s.palEntry addr)))
  discard : legal → tileId < s.params.gfxTiles → index = 0#4 → exec i s = .next (s.respond .discard)
  coordRange : ¬ legal → exec i s = .next (s.respond (.fault .coordRange))
  tileRange : legal → s.params.gfxTiles ≤ tileId → exec i s = .next (s.respond (.fault .tileRange))
  palRange : legal → tileId < s.params.gfxTiles → index ≠ 0#4 → s.params.palEntries ≤ addr →
    exec i s = .next (s.respond (.fault .palRange))

/-- A command that answers with `pixelResponse` has the five outcomes, where its coordinate is `p` on the legal domain
and COORD_RANGE outside it. -/
theorem PixelOutcomes.of_pixelResponse {i : Instr} {s : State} {coord : Except Cause PixelCoord} {tileId offset : Nat}
    {legal : Prop} {p : PixelCoord}
    (hexec : exec i s = .next (s.conclude (pixelResponse s coord tileId offset)))
    (hlegal : legal → coord = .ok p) (hillegal : ¬ legal → coord = .error .coordRange) :
    let index := unpack (s.gfxRecord (2 * tileId)) (s.gfxRecord (2 * tileId + 1)) p.1 p.2
    PixelOutcomes i s legal tileId index (index.toNat + offset) where
  color hl htile hne hin := by
    rw [hexec, hlegal hl, pixelResponse_of_tile_inside htile, resolve_eq, if_neg hne, if_neg (not_le.2 hin),
      State.conclude_ok]
  discard hl htile hzero := by
    rw [hexec, hlegal hl, pixelResponse_of_tile_inside htile, resolve_eq, if_pos hzero, State.conclude_ok]
  coordRange hl := by rw [hexec, hillegal hl, pixelResponse_error, State.conclude_error, State.raise]
  tileRange hl htile := by rw [hexec, hlegal hl, pixelResponse_ok, if_pos htile, State.conclude_error, State.raise]
  palRange hl htile hne hout := by
    rw [hexec, hlegal hl, pixelResponse_of_tile_inside htile, resolve_eq, if_neg hne, if_pos hout, State.conclude_error,
      State.raise]

/-- R184 (a): a tile whose words are all 0 answers DISCARD before any palette address is formed. -/
theorem pixelResponse_of_zero_tile {s : State} {tileId : Nat} (htile : tileId < s.params.gfxTiles)
    (hwords : ∀ j < 8, s.gfxWord (8 * tileId + j) = 0#32) (p : PixelCoord) (offset : Nat) :
    pixelResponse s (.ok p) tileId offset = .ok .discard := by
  obtain ⟨hfirst, hsecond⟩ := forall_word_of_tile (P := fun wa => s.gfxWord wa = 0#32) hwords
  obtain ⟨_, hzero, _⟩ := zeroAndSingleBitTiles
  rw [pixelResponse_of_tile_inside htile, State.gfxRecord_eq_zero hfirst, State.gfxRecord_eq_zero hsecond, hzero,
    resolve_eq, if_pos rfl]

/-- R183: two states of the same sizes that agree on the tile's words and on the entry the pixel addresses give the pixel
the same response. -/
theorem pixelResponse_congr {s₁ s₂ : State} {coord : Except Cause PixelCoord} {tileId offset : Nat}
    (htiles : s₁.params.gfxTiles = s₂.params.gfxTiles) (hentries : s₁.params.palEntries = s₂.params.palEntries)
    (hwords : ∀ j < 8, s₁.gfxWord (8 * tileId + j) = s₂.gfxWord (8 * tileId + j))
    (hentry : ∀ p, coord = .ok p →
      let addr := (unpack (s₁.gfxRecord (2 * tileId)) (s₁.gfxRecord (2 * tileId + 1)) p.1 p.2).toNat + offset
      s₁.palEntry addr = s₂.palEntry addr) :
    pixelResponse s₁ coord tileId offset = pixelResponse s₂ coord tileId offset := by
  obtain ⟨hfirst, hsecond⟩ := forall_word_of_tile (P := fun wa => s₁.gfxWord wa = s₂.gfxWord wa) hwords
  cases coord with
  | error c => rw [pixelResponse_error, pixelResponse_error]
  | ok p =>
    rw [pixelResponse_ok, pixelResponse_ok, Nat.mul_comm tileId 2, resolve_eq, resolve_eq, hentry p rfl, htiles,
      hentries, State.gfxRecord_congr hfirst, State.gfxRecord_congr hsecond]

/-- A command that concludes with the same answer in two states appends the same response to each. -/
theorem exists_respond_of_answer_eq {i : Instr} {answer : State → Except Cause Response} {s₁ s₂ : State}
    (hexec : ∀ s, exec i s = .next (s.conclude (answer s))) (hanswer : answer s₁ = answer s₂) :
    ∃ r, exec i s₁ = .next (s₁.respond r) ∧ exec i s₂ = .next (s₂.respond r) := by
  rw [hexec, hexec, hanswer]
  cases answer s₂ with
  | ok r => exact ⟨r, rfl, rfl⟩
  | error c => exact ⟨.fault c, rfl, rfl⟩

/-! ### The obligations -/

/-- Settles O26: the word is that of the command (O1), and the pixel is the one under the UV point. -/
theorem decodeResolvesThePixelUnderUv : Obligations.DecodeResolvesThePixelUnderUv := by
  rintro s paf tileId v u px py index addr hpx hpy rfl rfl
  have houtcomes := PixelOutcomes.of_pixelResponse (p := (px, py)) (exec_decode paf tileId v u s)
    (fun hl => uvToTileCoord_eq_ok_iff_legal.2 ⟨hl, hpx, hpy⟩) uvToTileCoord_of_not_legal
  rw [paletteOffsetOf_eq_mod] at houtcomes
  exact ⟨decodeOfEncodeIsTheCommand (.decode paf tileId v u) rfl, houtcomes.color, houtcomes.discard,
    houtcomes.coordRange, houtcomes.tileRange, houtcomes.palRange⟩

/-- Settles O27: as O26, with the coordinate the command gives. -/
theorem decodexyResolvesTheGivenPixel : Obligations.DecodexyResolvesTheGivenPixel := by
  rintro s paf tileId y x px py index addr hpx hpy rfl rfl
  have houtcomes := PixelOutcomes.of_pixelResponse (p := (px, py)) (exec_decodexy paf tileId y x s)
    (fun hl => xyToTileCoord_eq_ok_iff.2 ⟨hl, hpx, hpy⟩) xyToTileCoord_of_not_legal
  rw [paletteOffsetOf_eq_mod] at houtcomes
  exact ⟨decodeOfEncodeIsTheCommand (.decodexy paf tileId y x) rfl, houtcomes.color, houtcomes.discard,
    fun hout => houtcomes.coordRange (by omega), houtcomes.tileRange, houtcomes.palRange⟩

/-- Settles O40: the two commands have the same coordinate, and differ in nothing else. -/
theorem decodeAgreesWithDecodexy : Obligations.DecodeAgreesWithDecodexy := by
  intro s paf tileId v u hu hv hv'
  rw [exec_decode, exec_decodexy, xyToTileCoord_of_legal_uv ⟨Nat.lt_succ_of_le hu, hv, hv'⟩]

/-- Settles O43: on either legal domain there is a coordinate, and a tile of zero words is transparent at each. -/
theorem zeroTileIsTransparentForEveryBank : Obligations.ZeroTileIsTransparentForEveryBank := by
  intro s paf tileId v u y x htile hwords
  refine ⟨fun hu hv hv' => ?_, fun hx hy => ?_⟩
  · rw [exec_decode, uvToTileCoord_of_not_rangeErr (rangeErr_eq_false_iff_legal.2 ⟨hu, hv, hv'⟩),
      pixelResponse_of_zero_tile htile hwords, State.conclude_ok]
  · rw [exec_decodexy, xyToTileCoord_of_legal ⟨hx, hy⟩, pixelResponse_of_zero_tile htile hwords, State.conclude_ok]

/-- Settles O45: the entry on which the states must agree is that of the command's coordinate, where it has one. -/
theorem pixelDependsOnlyOnItsTileAndEntry : Obligations.PixelDependsOnlyOnItsTileAndEntry := by
  intro s₁ s₂ paf tileId v u y x htiles hentries hwords
  rw [← paletteOffsetOf_eq_mod]
  refine ⟨fun hentry => ?decode, fun hentry => ?decodexy⟩
  case decode =>
    refine exists_respond_of_answer_eq (exec_decode paf tileId v u)
      (pixelResponse_congr htiles hentries hwords fun p hp => ?_)
    obtain ⟨_, hpx, hpy⟩ := uvToTileCoord_eq_ok_iff_legal.1 hp
    exact hentry p.1 p.2 hpx hpy
  case decodexy =>
    refine exists_respond_of_answer_eq (exec_decodexy paf tileId y x)
      (pixelResponse_congr htiles hentries hwords fun p hp => ?_)
    obtain ⟨_, hpx, hpy⟩ := xyToTileCoord_eq_ok_iff.1 hp
    exact hentry p.1 p.2 hpx hpy

end Sys2Proof.Machine

/-! PROOFS. The command PREVIEW: its index as a floor of rationals (O19), its three outcomes (O29) and the centre of a
cell (O42). -/

namespace Sys2Proof.Machine

/-! ### The preview index (R190, R191, R192) -/

section
variable {u v : Field}

/-- R192: off the legal domain a field is above 1, or `U = 0x8000` is in column 16, or `V = 0` is in row 16. -/
theorem uvToPreviewIndex_of_not_legal (h : ¬ (u.toNat < 0x8000 ∧ 0 < v.toNat ∧ v.toNat ≤ 0x8000)) :
    uvToPreviewIndex u v = .error .coordRange := by
  rw [uvToPreviewIndex]
  cases habove : uvAboveOne u v with
  | true => exact if_pos rfl
  | false =>
    rw [uvAboveOne, Bool.or_eq_false_iff, decide_eq_false_iff_not, decide_eq_false_iff_not, uvOne] at habove
    have hedge : gridColumn 11 u = previewDim ∨ gridRow 11 v = previewDim := by
      rw [gridColumn, gridRow, uvOne, previewDim, Nat.shiftRight_eq_div_pow, Nat.shiftRight_eq_div_pow]
      omega
    rw [if_neg Bool.false_ne_true, if_pos hedge]

theorem uvToPreviewIndex_eq_ok_iff_legal {idx : Nat} : uvToPreviewIndex u v = .ok idx ↔
    (u.toNat < 0x8000 ∧ 0 < v.toNat ∧ v.toNat ≤ 0x8000) ∧ idx = gridColumn 11 u + gridRow 11 v * 16 := by
  have hcolumn : gridColumn 11 u = u.toNat / 2048 := Nat.shiftRight_eq_div_pow ..
  have hrow : gridRow 11 v = (0x8000 - v.toNat) / 2048 := Nat.shiftRight_eq_div_pow ..
  by_cases h : u.toNat < 0x8000 ∧ 0 < v.toNat ∧ v.toNat ≤ 0x8000
  · have ⟨hu, hv, hv'⟩ := h
    rw [uvToPreviewIndex_of_legal hu hv hv', Except.ok.injEq, and_iff_right h, hcolumn, hrow, eq_comm]
  · simp only [uvToPreviewIndex_of_not_legal h, reduceCtorEq, h, false_and]

end

/-! ### The faults of PREVIEW (R190, R193) -/

section
variable {s : State} {u v : Field}

theorem exec_preview_of_error {c : Cause} (h : uvToPreviewIndex u v = .error c) (paf tileId : Field) :
    exec (.preview paf tileId v u) s = .next (s.respond (.fault c)) := by
  have hresponse : previewResponse s u v = .error c := by rw [previewResponse, h]; rfl
  rw [exec_preview, hresponse, State.conclude_error, State.raise]

theorem exec_preview_of_palEntries_le {idx : Nat} (hidx : uvToPreviewIndex u v = .ok idx)
    (hout : s.params.palEntries ≤ idx) (paf tileId : Field) :
    exec (.preview paf tileId v u) s = .next (s.respond (.fault .palRange)) := by
  have hresponse : previewResponse s u v = .error .palRange := by
    rw [previewResponse, hidx]
    exact if_pos hout
  rw [exec_preview, hresponse, State.conclude_error, State.raise]

end

/-! ### The obligations -/

/-- Settles O19: an index is column and row of the grid of 16 by 16 cells, which are the floors. -/
theorem previewIndexIsTheFloor : Obligations.PreviewIndexIsTheFloor := by
  intro u v idx h
  obtain ⟨⟨_, _, hv⟩, rfl⟩ := uvToPreviewIndex_eq_ok_iff_legal.1 h
  have hcells : (2 : ℚ) ^ (15 - 11) = 16 := by norm_num
  rw [Nat.cast_add, Nat.cast_mul, gridColumn_eq_floor (by decide), gridRow_eq_floor (by decide) hv, hcells]
  rfl

/-- Settles O29: the word is that of the command (O1); the domain decides COORD_RANGE, then the palette's size. -/
theorem previewAnswersTheGridEntry : Obligations.PreviewAnswersTheGridEntry := by
  rintro s paf tileId v u idx rfl
  refine ⟨decodeOfEncodeIsTheCommand (.preview paf tileId v u) rfl, fun ⟨hu, hv, hv'⟩ hin => ?color,
    fun hillegal => ?coordRange, fun ⟨hu, hv, hv'⟩ hout => ?palRange⟩
  case color => exact exec_preview_of_index (uvToPreviewIndex_of_legal hu hv hv') hin paf tileId
  case coordRange => exact exec_preview_of_error (uvToPreviewIndex_of_not_legal hillegal) paf tileId
  case palRange => exact exec_preview_of_palEntries_le (uvToPreviewIndex_of_legal hu hv hv') hout paf tileId

/-- Settles O42: the centre of the cell indexes the cell, and the palette holds its entry. -/
theorem previewOfACellCentre : Obligations.PreviewOfACellCentre := fun _ paf tileId _ _ hr hc hin =>
  exec_preview_of_index (uvToPreviewIndex_cellCentre hc hr) hin paf tileId

end Sys2Proof.Machine

/-! PROOFS. The command DEBUG: the five outcomes of its fixed tile (O28), and the DECODE it is (O41). -/

namespace Sys2Proof.Machine

/-! ### The fixed palette offset (R201) -/

/-- The constant is the palette offset itself: the bank 5, times 16. -/
theorem paletteOffsetOf_debug_bank : paletteOffsetOf 0x0005 = debugPalOffset := paletteOffsetOf_eq_mod 0x0005

/-! ### The obligations -/

/-- Settles O28: the word is that of the command (O1), and the outcomes are those of a pixel command (R180) whose tile
and palette offset are the constants. -/
theorem debugResolvesTheFixedTile : Obligations.DebugResolvesTheFixedTile := by
  rintro s paf tileId v u px py index hpx hpy rfl
  have houtcomes := PixelOutcomes.of_pixelResponse (p := (px, py)) (exec_debug paf tileId v u s)
    (fun hl => uvToTileCoord_eq_ok_iff_legal.2 ⟨hl, hpx, hpy⟩) uvToTileCoord_of_not_legal
  exact ⟨decodeOfEncodeIsTheCommand (.debug paf tileId v u) rfl, houtcomes.color, houtcomes.discard,
    houtcomes.coordRange, houtcomes.tileRange, houtcomes.palRange⟩

/-- Settles O41: both answer the same pixel response, and `paf` 0x0005 names the fixed palette offset. -/
theorem debugIsDecodeOfTheFixedTile : Obligations.DebugIsDecodeOfTheFixedTile := by
  intro s paf tileId v u
  have htile : (0x0014 : Field).toNat = debugTileId := rfl
  rw [exec_debug, exec_decode, htile, paletteOffsetOf_debug_bank]

end Sys2Proof.Machine

/-! PROOFS. The load commands: the one location each writes, and their faults (O31 to O33). -/

namespace Sys2Proof.Machine

/-! ### The words of a record (R34, R91) -/

/-- R34: word `k` of a record is the word at its word address. -/
theorem State.extractLsb'_gfxRecord (s : State) (r : Nat) {k : Nat} (hk : k < 4) :
    (s.gfxRecord r).extractLsb' (32 * k) 32 = s.gfxWord (4 * r + k) := by
  refine BitVec.eq_of_getLsbD_eq fun i hi => ?_
  rw [BitVec.getLsbD_extractLsb', State.getLsbD_gfxRecord s r hk hi, decide_eq_true hi, Bool.true_and]

theorem recordOfWaddr_eq_div (waddr : BitVec 19) : recordOfWaddr waddr = waddr.toNat / 4 :=
  Nat.shiftRight_eq_div_pow ..

/-- R91: a word address names one record, and one of its four words. -/
theorem word_eq_waddr_iff {waddr : BitVec 19} {r k : Nat} (hk : k < 4) :
    4 * r + k = 4 * recordOfWaddr waddr + wordOfWaddr waddr ↔ r = recordOfWaddr waddr ∧ k = waddr.toNat % 4 := by
  rw [record_add_word, recordOfWaddr_eq_div]
  omega

/-! ### What each load command does in each of its cases (R210, R211, R212) -/

section
variable {s : State}

theorem exec_wrGfx_of_mbz_ne_zero {mbz : BitVec 13} (hmbz : mbz ≠ 0#13) (waddr : BitVec 19) (data : Word) :
    exec (.wrGfx mbz waddr data) s = .next (s.respond (.fault .illegalOp)) :=
  congrArg Host.Outcome.next (if_pos hmbz)

theorem exec_wrGfx_of_record_outside {waddr : BitVec 19} (hout : 2 * s.params.gfxTiles ≤ recordOfWaddr waddr)
    (data : Word) : exec (.wrGfx 0 waddr data) s = .next (s.respond (.fault .wrRange)) :=
  congrArg Host.Outcome.next (if_pos hout)

theorem exec_wrGfx_of_record_inside {waddr : BitVec 19} (hin : recordOfWaddr waddr < 2 * s.params.gfxTiles)
    (data : Word) : exec (.wrGfx 0 waddr data) s =
      .next ((s.writeGfx (recordOfWaddr waddr) (wordOfWaddr waddr) data).respond .ack) :=
  congrArg Host.Outcome.next (if_neg (not_le.2 hin))

theorem exec_wrPal_of_mbz_ne_zero {mbz : BitVec 20} (hmbz : mbz ≠ 0#20) (paddr : BitVec 12) (color : Word) :
    exec (.wrPal mbz paddr color) s = .next (s.respond (.fault .illegalOp)) :=
  congrArg Host.Outcome.next (if_pos hmbz)

theorem exec_wrPal_of_outside {paddr : BitVec 12} (hout : s.params.palEntries ≤ paddr.toNat) (color : Word) :
    exec (.wrPal 0 paddr color) s = .next (s.respond (.fault .wrRange)) :=
  congrArg Host.Outcome.next (if_pos hout)

theorem exec_wrPal_of_inside {paddr : BitVec 12} (hin : paddr.toNat < s.params.palEntries) (color : Word) :
    exec (.wrPal 0 paddr color) s = .next ((s.writePal paddr.toNat color).respond .ack) :=
  congrArg Host.Outcome.next (if_neg (not_le.2 hin))

theorem exec_wrRes_of_mbz_ne_zero {mbz : BitVec 32} (hmbz : mbz ≠ 0#32) (resY resX : Field) :
    exec (.wrRes mbz resY resX) s = .next (s.respond (.fault .illegalOp)) :=
  congrArg Host.Outcome.next (if_pos hmbz)

theorem exec_wrRes_zero (resY resX : Field) :
    exec (.wrRes 0 resY resX) s = .next ((s.writeRes resX resY).respond .ack) := rfl

end

/-! ### The obligations -/

/-- Settles O31: the word is that of the command (O1), and the one word written is that of the record and place that the
word address names. -/
theorem wrGfxWritesOneWord : Obligations.WrGfxWritesOneWord := by
  intro s mbz waddr data
  rw [← recordOfWaddr_eq_div]
  refine ⟨decodeOfEncodeIsTheCommand (.wrGfx 0 waddr data) rfl, ?written,
    fun hmbz => exec_wrGfx_of_mbz_ne_zero hmbz waddr data, ?outside⟩
  case written =>
    rintro rfl hin
    refine ⟨_, exec_wrGfx_of_record_inside hin data, rfl, fun r k hk => ?_, rfl, rfl, rfl⟩
    rw [State.gfxRecord_respond, State.extractLsb'_gfxRecord _ r hk, State.extractLsb'_gfxRecord s r hk,
      State.gfxWord_writeGfx]
    exact if_congr (word_eq_waddr_iff hk) rfl rfl
  case outside =>
    rintro rfl hout
    exact exec_wrGfx_of_record_outside hout data

/-- Settles O32: the word is that of the command (O1), and the write is read back at its own entry only. -/
theorem wrPalWritesOneEntry : Obligations.WrPalWritesOneEntry := by
  intro s mbz paddr color
  refine ⟨decodeOfEncodeIsTheCommand (.wrPal 0 paddr color) rfl, ?written,
    fun hmbz => exec_wrPal_of_mbz_ne_zero hmbz paddr color, ?outside⟩
  case written =>
    rintro rfl hin
    exact ⟨_, exec_wrPal_of_inside hin color, rfl, State.palEntry_writePal s paddr.toNat color, rfl, rfl, rfl⟩
  case outside =>
    rintro rfl hout
    exact exec_wrPal_of_outside hout color

/-- Settles O33: the word is that of the command (O1), and one write holds both registers. -/
theorem wrResWritesBothRegisters : Obligations.WrResWritesBothRegisters := by
  intro s mbz resY resX
  refine ⟨decodeOfEncodeIsTheCommand (.wrRes 0 resY resX) rfl, ?written,
    fun hmbz => exec_wrRes_of_mbz_ne_zero hmbz resY resX⟩
  rintro rfl
  exact ⟨_, exec_wrRes_zero resY resX, rfl, rfl, rfl, rfl, rfl⟩

end Sys2Proof.Machine

/-! PROOFS. Faults: a faulting command changes nothing else (O38), and the causes that each command can raise (O39). -/

namespace Sys2Proof.Machine

/-! ### The response a command gave, read from the queue (R100) -/

/-- O14: a response word is the word of one response only. -/
theorem encodeResponse_injective : Function.Injective encodeResponse := fun r r' h =>
  Option.some.inj ((responseIsReadBack r).symm.trans ((congrArg decodeResponse h).trans (responseIsReadBack r')))

/-- Two responses after the same queue that make the same queue are the same response. -/
theorem response_eq_of_append_eq {q : List ResponseWord} {r r' : Response}
    (h : q ++ [encodeResponse r] = q ++ [encodeResponse r']) : r = r' :=
  encodeResponse_injective (List.singleton_inj.1 (List.append_cancel_left h))

/-- R210, R211, R212: a command only responds, or it writes and answers ACK. -/
theorem exec_respond_or_ack (i : Instr) (s : State) :
    (∃ r, exec i s = .next (s.respond r)) ∨
      ∃ u, s.Written u ∧ exec i s = .next (u.respond .ack) := by
  have hconclude : ∀ e, exec i s = .next (s.conclude e) → ∃ r, exec i s = .next (s.respond r) := fun e he =>
    (s.conclude_eq_respond e).imp fun _ hr => he.trans (congrArg _ hr)
  cases i with
  | decode paf tileId v u => exact .inl (hconclude _ (exec_decode ..))
  | preview paf tileId v u => exact .inl (hconclude _ (exec_preview ..))
  | debug paf tileId v u => exact .inl (hconclude _ (exec_debug ..))
  | decodexy paf tileId y x => exact .inl (hconclude _ (exec_decodexy ..))
  | place corner paf tileId gridY gridX => exact .inl (hconclude _ (exec_place ..))
  | wrGfx mbz waddr data =>
    rcases exec_wrGfx_cases mbz waddr data s with ⟨_, h⟩ | ⟨_, _, h⟩ | ⟨_, hin, h⟩
    · exact .inl ⟨_, h⟩
    · exact .inl ⟨_, h⟩
    · exact .inr ⟨_, .gfx waddr data hin, h⟩
  | wrPal mbz paddr color =>
    rcases exec_wrPal_cases mbz paddr color s with ⟨_, h⟩ | ⟨_, _, h⟩ | ⟨_, hin, h⟩
    · exact .inl ⟨_, h⟩
    · exact .inl ⟨_, h⟩
    · exact .inr ⟨_, .pal _ color hin, h⟩
  | wrRes mbz resY resX =>
    rcases exec_wrRes_cases mbz resY resX s with ⟨_, h⟩ | ⟨_, h⟩
    · exact .inl ⟨_, h⟩
    · exact .inr ⟨_, .res resX resY, h⟩

/-- Settles O38: an ACK is no FAULT, so the command wrote nothing and only responded. -/
theorem faultingCommandChangesNothing : Obligations.FaultingCommandChangesNothing := by
  intro i s t c ht hfault
  rcases exec_respond_or_ack i s with ⟨r, h⟩ | ⟨u, hu, h⟩
  all_goals obtain rfl := Host.Outcome.next.inj (h.symm.trans ht)
  · obtain rfl := response_eq_of_append_eq hfault
    rfl
  · rw [State.respond_responses, hu.responses_eq] at hfault
    cases response_eq_of_append_eq hfault

/-! ### The faults of a command (R226, R227) -/

/-- The command answers a FAULT with the cause `c`, and by O38 does nothing else. -/
def FaultsWith (i : Instr) (s : State) (c : Cause) : Prop := exec i s = .next (s.respond (.fault c))

/-- The response that a command gives is the fault it faults with. -/
theorem FaultsWith.response_eq {i : Instr} {s u : State} {r : Response} {c : Cause} (h : FaultsWith i s c)
    (hu : s.Written u) (hexec : exec i s = .next (u.respond r)) : r = .fault c := by
  have hresponses := congrArg State.responses (Host.Outcome.next.inj (hexec.symm.trans h))
  rw [State.respond_responses, State.respond_responses, hu.responses_eq] at hresponses
  exact response_eq_of_append_eq hresponses

/-- A command that concludes with a computed answer faults only where the computation did, if no FAULT is a result. -/
theorem FaultsWith.answer_eq_error {i : Instr} {s : State} {answer : Except Cause Response} {c : Cause}
    (h : FaultsWith i s c) (hexec : exec i s = .next (s.conclude answer)) (hok : answer ≠ .ok (.fault c)) :
    answer = .error c := by
  cases answer with
  | ok r => exact absurd (congrArg Except.ok (h.response_eq .nothing hexec)) hok
  | error c' => cases h.response_eq (r := .fault c') .nothing hexec; rfl

theorem uvToTileCoord_eq_error {u v : Field} {c : Cause} (h : uvToTileCoord u v = .error c) : c = .coordRange := by
  cases hrange : rangeErr u v with
  | true => exact (Except.error.inj ((uvToTileCoord_of_rangeErr hrange).symm.trans h)).symm
  | false => cases (uvToTileCoord_of_not_rangeErr hrange).symm.trans h

theorem xyToTileCoord_eq_error {x y : Field} {c : Cause} (h : xyToTileCoord x y = .error c) : c = .coordRange := by
  by_cases hlegal : x.toNat ≤ 7 ∧ y.toNat ≤ 7
  · cases (xyToTileCoord_of_legal hlegal).symm.trans h
  · exact (Except.error.inj ((xyToTileCoord_of_not_legal hlegal).symm.trans h)).symm

section
variable {s : State} {c : Cause}

/-- R227: PAL_RANGE needs an address outside the palette, and 15 is the highest index. -/
theorem FaultsWith.pixel_cause {i : Instr} {coord : Except Cause PixelCoord} {tileId offset : Nat}
    (h : FaultsWith i s c) (hexec : exec i s = .next (s.conclude (pixelResponse s coord tileId offset)))
    (hcoord : ∀ c, coord = .error c → c = .coordRange) :
    c = .coordRange ∨ (c = .tileRange ∧ s.params.gfxTiles ≤ tileId) ∨
      (c = .palRange ∧ s.params.palEntries ≤ offset + 15) := by
  cases coord with
  | error c' =>
    rw [pixelResponse_error] at hexec
    cases h.answer_eq_error hexec nofun
    exact .inl (hcoord c rfl)
  | ok p =>
    rw [pixelResponse_ok] at hexec
    by_cases htile : s.params.gfxTiles ≤ tileId
    · rw [if_pos htile] at hexec
      cases h.answer_eq_error hexec nofun
      exact .inr (.inl ⟨rfl, htile⟩)
    · rw [if_neg htile] at hexec
      rcases resolve_cases s (unpack (s.gfxRecord (tileId * 2)) (s.gfxRecord (tileId * 2 + 1)) p.1 p.2) offset with
        ⟨_, hr⟩ | ⟨_, hout, hr⟩ | ⟨_, _, hr⟩
      all_goals
        rw [hr] at hexec
        cases h.answer_eq_error hexec nofun
      exact .inr (.inr ⟨rfl, by omega⟩)

/-- R227: PREVIEW addresses the lowest 256 entries. -/
theorem FaultsWith.preview_cause {paf tileId v u : Field} (h : FaultsWith (.preview paf tileId v u) s c) :
    c = .coordRange ∨ (c = .palRange ∧ s.params.palEntries < 256) := by
  by_cases hlegal : u.toNat < 0x8000 ∧ 0 < v.toNat ∧ v.toNat ≤ 0x8000
  · obtain ⟨hu, hv, hv'⟩ := hlegal
    have hidx := uvToPreviewIndex_of_legal hu hv hv'
    by_cases hin : u.toNat / 2048 + (0x8000 - v.toNat) / 2048 * 16 < s.params.palEntries
    · cases h.response_eq .nothing (exec_preview_of_index hidx hin paf tileId)
    · cases h.response_eq .nothing (exec_preview_of_palEntries_le hidx (not_lt.1 hin) paf tileId)
      exact .inr ⟨rfl, by omega⟩
  · cases h.response_eq .nothing (exec_preview_of_error (uvToPreviewIndex_of_not_legal hlegal) paf tileId)
    exact .inl rfl

/-- R126, R128. -/
theorem FaultsWith.place_cause {corner : BitVec 2} {paf tileId gridY gridX : Field}
    (h : FaultsWith (.place corner paf tileId gridY gridX) s c) : c = .resZero := by
  obtain ⟨_, hposition, hzero⟩ := placeAnswersThePosition s corner paf tileId gridY gridX _ _ rfl rfl
  by_cases hres : s.resX = 0#16 ∨ s.resY = 0#16
  · cases h.response_eq .nothing (hzero hres)
    rfl
  · obtain ⟨hx, hy⟩ := not_or.1 hres
    cases h.response_eq .nothing (hposition hx hy)

theorem FaultsWith.wrGfx_cause {mbz : BitVec 13} {waddr : BitVec 19} {data : Word}
    (h : FaultsWith (.wrGfx mbz waddr data) s c) : (c = .illegalOp ∧ mbz ≠ 0#13) ∨ c = .wrRange := by
  rcases exec_wrGfx_cases mbz waddr data s with ⟨hmbz, he⟩ | ⟨_, _, he⟩ | ⟨_, hin, he⟩
  · cases h.response_eq .nothing he
    exact .inl ⟨rfl, hmbz⟩
  · cases h.response_eq .nothing he
    exact .inr rfl
  · cases h.response_eq (.gfx waddr data hin) he

theorem FaultsWith.wrPal_cause {mbz : BitVec 20} {paddr : BitVec 12} {color : Word}
    (h : FaultsWith (.wrPal mbz paddr color) s c) : (c = .illegalOp ∧ mbz ≠ 0#20) ∨ c = .wrRange := by
  rcases exec_wrPal_cases mbz paddr color s with ⟨hmbz, he⟩ | ⟨_, _, he⟩ | ⟨_, hin, he⟩
  · cases h.response_eq .nothing he
    exact .inl ⟨rfl, hmbz⟩
  · cases h.response_eq .nothing he
    exact .inr rfl
  · cases h.response_eq (.pal _ color hin) he

theorem FaultsWith.wrRes_cause {mbz : BitVec 32} {resY resX : Field} (h : FaultsWith (.wrRes mbz resY resX) s c) :
    c = .illegalOp ∧ mbz ≠ 0#32 := by
  rcases exec_wrRes_cases mbz resY resX s with ⟨hmbz, he⟩ | ⟨_, he⟩
  · cases h.response_eq .nothing he
    exact ⟨rfl, hmbz⟩
  · cases h.response_eq (.res resX resY) he

end

/-- Settles O39: by O38 the command faults and does nothing else, and each command has its own causes. The bounds on the
sizes are those of the constants of DEBUG and of the grid of PREVIEW. -/
theorem causesEachCommandCanRaise : Obligations.CausesEachCommandCanRaise := by
  intro i s t c ht hfault
  obtain rfl := faultingCommandChangesNothing i s t c ht hfault
  have h : FaultsWith i s c := ht
  cases i with
  | place corner paf tileId gridY gridX => exact h.place_cause
  | decode paf tileId v u =>
    exact (h.pixel_cause (exec_decode ..) fun _ => uvToTileCoord_eq_error).imp_right (.imp And.left And.left)
  | decodexy paf tileId y x =>
    exact (h.pixel_cause (exec_decodexy ..) fun _ => xyToTileCoord_eq_error).imp_right (.imp And.left And.left)
  | preview paf tileId v u => exact h.preview_cause
  | debug paf tileId v u => exact h.pixel_cause (exec_debug ..) fun _ => uvToTileCoord_eq_error
  | wrGfx mbz waddr data => exact h.wrGfx_cause
  | wrPal mbz paddr color => exact h.wrPal_cause
  | wrRes mbz resY resX => exact h.wrRes_cause

end Sys2Proof.Machine

/-! PROOFS. The unit that waits (O9), a command that reads only what has been written (O56), and the words of the worked
examples (O4). -/

namespace Sys2Proof.Machine

/-! ### When there is nothing to fetch -/

theorem fetch_of_commands_eq_nil {s : State} (h : s.commands = []) : fetch s = none := by
  simp only [fetch, h]

theorem fetch_of_not_responseRoom {s : State} (h : s.responseRoom = false) : fetch s = none := by
  cases hc : s.commands with
  | nil => exact fetch_of_commands_eq_nil hc
  | cons w rest => simp only [fetch, hc, h, Bool.false_eq_true, if_false]

/-! ### Reads of what has been written since reset (R222, U6) -/

section
variable {s : State} {e : Nat} {x y : Field}

theorem Memory.byte?_isSome_of_wordWritten {m : Memory} {wa : Nat} (h : m.wordWritten wa = true) :
    (m.byte? (4 * wa)).isSome = true ∧ (m.byte? (4 * wa + 1)).isSome = true ∧ (m.byte? (4 * wa + 2)).isSome = true ∧
      (m.byte? (4 * wa + 3)).isSome = true := by
  simpa only [Memory.wordWritten, Bool.and_eq_true, and_assoc] using h

theorem State.gfxByte_withUnspecified {a : Nat} (h : (s.gfx.byte? a).isSome = true) :
    (s.withUnspecified e x y).gfxByte a = s.gfxByte a := by
  obtain ⟨b, hb⟩ := Option.isSome_iff_exists.1 h
  rw [State.gfxByte, State.gfxByte, State.withUnspecified_gfx, hb, Option.getD_some, Option.getD_some]

theorem State.palByte_withUnspecified {a : Nat} (h : (s.pal.byte? a).isSome = true) :
    (s.withUnspecified e x y).palByte a = s.palByte a := by
  obtain ⟨b, hb⟩ := Option.isSome_iff_exists.1 h
  rw [State.palByte, State.palByte, State.withUnspecified_pal, hb, Option.getD_some, Option.getD_some]

theorem State.gfxWord_withUnspecified {wa : Nat} (h : s.gfx.wordWritten wa = true) :
    (s.withUnspecified e x y).gfxWord wa = s.gfxWord wa := by
  obtain ⟨h0, h1, h2, h3⟩ := Memory.byte?_isSome_of_wordWritten h
  rw [State.gfxWord, State.gfxByte_withUnspecified h0, State.gfxByte_withUnspecified h1,
    State.gfxByte_withUnspecified h2, State.gfxByte_withUnspecified h3, State.gfxWord]

theorem State.palEntry_withUnspecified {i : Nat} (h : s.entryWritten i = true) :
    (s.withUnspecified e x y).palEntry i = s.palEntry i := by
  obtain ⟨h0, h1, h2, h3⟩ := Memory.byte?_isSome_of_wordWritten h
  rw [State.palEntry, State.palByte_withUnspecified h0, State.palByte_withUnspecified h1,
    State.palByte_withUnspecified h2, State.palByte_withUnspecified h3, State.palEntry]

/-- R52: both records of a tile that has been written. -/
theorem State.gfxRecord_withUnspecified {tileId : Nat} (h : s.tileWritten tileId = true) :
    (s.withUnspecified e x y).gfxRecord (2 * tileId) = s.gfxRecord (2 * tileId) ∧
      (s.withUnspecified e x y).gfxRecord (2 * tileId + 1) = s.gfxRecord (2 * tileId + 1) := by
  have hwords : ∀ j < 8, (s.withUnspecified e x y).gfxWord (8 * tileId + j) = s.gfxWord (8 * tileId + j) :=
    fun j hj => State.gfxWord_withUnspecified (List.all_eq_true.1 h j (List.mem_range.2 hj))
  obtain ⟨hfirst, hsecond⟩ := forall_word_of_tile
    (P := fun wa => (s.withUnspecified e x y).gfxWord wa = s.gfxWord wa) hwords
  exact ⟨State.gfxRecord_congr hfirst, State.gfxRecord_congr hsecond⟩

/-! ### Answers that rest on what has been written -/

/-- R55: the resolver reads no entry for index 0 nor for an address outside the palette. -/
theorem resolve_withUnspecified {index : ColorIndex} {offset : Nat}
    (h : (discardFlag index || palRangeErr s index offset || s.entryWritten (index.toNat + offset)) = true) :
    resolve (s.withUnspecified e x y) index offset = resolve s index offset := by
  have hflag : palRangeErr (s.withUnspecified e x y) index offset = palRangeErr s index offset := rfl
  rw [resolve, resolve, hflag]
  cases hdiscard : discardFlag index with
  | true => rfl
  | false =>
    cases hpal : palRangeErr s index offset with
    | true => rfl
    | false =>
      rw [hdiscard, hpal, Bool.or_self, Bool.false_or] at h
      rw [State.palEntry_withUnspecified h]

/-- The boot test of a pixel, where its tile is in range. -/
theorem State.pixelWritten_of_tile_inside {tileId : Nat} (htile : tileId < s.params.gfxTiles) (p : PixelCoord)
    (offset : Nat) :
    let index := unpack (s.gfxRecord (2 * tileId)) (s.gfxRecord (2 * tileId + 1)) p.1 p.2
    s.pixelWritten (.ok p) tileId offset = (s.tileWritten tileId &&
      (discardFlag index || palRangeErr s index offset || s.entryWritten (index.toNat + offset))) := by
  rcases tileIndex_cases s tileId p with ⟨hout, _⟩ | ⟨_, hindex⟩
  · exact absurd htile (not_lt.2 hout)
  · rw [Nat.mul_comm tileId 2] at hindex
    simp only [State.pixelWritten, hindex]

theorem pixelResponse_withUnspecified {coord : Except Cause PixelCoord} {tileId offset : Nat}
    (h : s.pixelWritten coord tileId offset = true) :
    pixelResponse (s.withUnspecified e x y) coord tileId offset = pixelResponse s coord tileId offset := by
  cases coord with
  | error c => rw [pixelResponse_error, pixelResponse_error]
  | ok p =>
    by_cases htile : tileId < s.params.gfxTiles
    · rw [State.pixelWritten_of_tile_inside htile, Bool.and_eq_true] at h
      obtain ⟨hwritten, hentry⟩ := h
      obtain ⟨hfirst, hsecond⟩ := State.gfxRecord_withUnspecified (e := e) (x := x) (y := y) hwritten
      rw [pixelResponse_of_tile_inside htile, pixelResponse_of_tile_inside (by exact htile), hfirst, hsecond,
        resolve_withUnspecified hentry]
    · rw [pixelResponse_ok, pixelResponse_ok, State.withUnspecified_params, if_pos (not_lt.1 htile),
        if_pos (not_lt.1 htile)]

/-- R190, R193: with an index, PREVIEW answers its entry in a palette that holds it. -/
theorem previewResponse_of_index {u v : Field} {idx : Nat} (hidx : uvToPreviewIndex u v = .ok idx) :
    previewResponse s u v =
      if s.params.palEntries ≤ idx then .error .palRange else .ok (.color (s.palEntry idx)) := by
  rw [previewResponse, hidx]
  rfl

theorem previewResponse_withUnspecified {paf tileId u v : Field} (h : s.bootMet (.preview paf tileId v u) = true) :
    previewResponse (s.withUnspecified e x y) u v = previewResponse s u v := by
  cases hidx : uvToPreviewIndex u v with
  | error c => rw [previewResponse, previewResponse, hidx]; rfl
  | ok idx =>
    simp only [State.bootMet, hidx, Bool.or_eq_true, decide_eq_true_eq] at h
    rw [previewResponse_of_index hidx, previewResponse_of_index hidx, State.withUnspecified_params]
    by_cases hout : s.params.palEntries ≤ idx
    · rw [if_pos hout, if_pos hout]
    · rw [if_neg hout, if_neg hout, State.palEntry_withUnspecified (h.resolve_left hout)]

/-- U6: registers that have been written hold what was written. -/
theorem placeResponse_withUnspecified (h : s.resWritten = true) (corner : BitVec 2) (paf tileId gridY gridX : Field) :
    placeResponse (s.withUnspecified e x y) corner paf tileId gridY gridX =
      placeResponse s corner paf tileId gridY gridX := by
  simp only [placeResponse, State.withUnspecified_resX, State.withUnspecified_resY, h, if_true]

/-! ### Commands that conclude with an answer -/

theorem State.conclude_withUnspecified (a : Except Cause Response) :
    (s.withUnspecified e x y).conclude a = (s.conclude a).withUnspecified e x y := by
  cases a <;> rfl

/-- A command that concludes with the same answer in both states does the same in both. -/
theorem exec_withUnspecified_of_conclude {i : Instr} {answer : State → Except Cause Response} {t : State}
    (hexec : ∀ s, exec i s = .next (s.conclude (answer s)))
    (hanswer : answer (s.withUnspecified e x y) = answer s) (ht : exec i s = .next t) :
    exec i (s.withUnspecified e x y) = .next (t.withUnspecified e x y) := by
  obtain rfl := Host.Outcome.next.inj ((hexec s).symm.trans ht)
  rw [hexec, hanswer, State.conclude_withUnspecified]

end

/-! ### The obligations -/

/-- Settles O9: either way there is nothing to fetch. -/
theorem stepWaitsWithAllStateKept : Obligations.StepWaitsWithAllStateKept := fun _ hl =>
  ⟨fun hempty => step_of_fetch_eq_none hl (fetch_of_commands_eq_nil hempty),
    fun hfull => step_of_fetch_eq_none hl (fetch_of_not_responseRoom hfull)⟩

/-- Settles O56: what a command answers rests on written locations alone, and a write command reads the sizes only. Its
write and its response commute with the change of the unspecified contents by definition; WR_RES leaves neither register
unspecified. -/
theorem bootedCommandIgnoresUnspecifiedContents : Obligations.BootedCommandIgnoresUnspecifiedContents := by
  intro i s t e x y hboot ht
  cases i with
  | decode paf tileId v u =>
    exact exec_withUnspecified_of_conclude (exec_decode _ _ _ _) (pixelResponse_withUnspecified hboot) ht
  | preview paf tileId v u =>
    exact exec_withUnspecified_of_conclude (exec_preview _ _ _ _) (previewResponse_withUnspecified hboot) ht
  | debug paf tileId v u =>
    exact exec_withUnspecified_of_conclude (exec_debug _ _ _ _) (pixelResponse_withUnspecified hboot) ht
  | decodexy paf tileId y x =>
    exact exec_withUnspecified_of_conclude (exec_decodexy _ _ _ _) (pixelResponse_withUnspecified hboot) ht
  | place corner paf tileId gridY gridX =>
    exact exec_withUnspecified_of_conclude (exec_place _ _ _ _ _) (placeResponse_withUnspecified hboot ..) ht
  | wrGfx mbz waddr data =>
    rcases exec_wrGfx_cases mbz waddr data s with ⟨hmbz, h⟩ | ⟨rfl, hout, h⟩ | ⟨rfl, hin, h⟩
    all_goals obtain rfl := Host.Outcome.next.inj (h.symm.trans ht)
    · exact exec_wrGfx_of_mbz_ne_zero hmbz waddr data
    · exact exec_wrGfx_of_record_outside (s := s.withUnspecified e x y) hout data
    · exact exec_wrGfx_of_record_inside (s := s.withUnspecified e x y) hin data
  | wrPal mbz paddr color =>
    rcases exec_wrPal_cases mbz paddr color s with ⟨hmbz, h⟩ | ⟨rfl, hout, h⟩ | ⟨rfl, hin, h⟩
    all_goals obtain rfl := Host.Outcome.next.inj (h.symm.trans ht)
    · exact exec_wrPal_of_mbz_ne_zero hmbz paddr color
    · exact exec_wrPal_of_outside (s := s.withUnspecified e x y) hout color
    · exact exec_wrPal_of_inside (s := s.withUnspecified e x y) hin color
  | wrRes mbz resY resX =>
    rcases exec_wrRes_cases mbz resY resX s with ⟨hmbz, h⟩ | ⟨rfl, h⟩
    all_goals obtain rfl := Host.Outcome.next.inj (h.symm.trans ht)
    · exact exec_wrRes_of_mbz_ne_zero hmbz resY resX
    · exact exec_wrRes_zero resY resX

/-- Settles O4: each word is that of its command, from which the decoder reads the command back (O1). -/
theorem workedExampleWordsDecode : Obligations.WorkedExampleWordsDecode :=
  ⟨decodeOfEncodeIsTheCommand (.decode 0 1 0x6800 0x1800) rfl,
    decodeOfEncodeIsTheCommand (.preview 0 0 0x6C00 0x2C00) rfl,
    decodeOfEncodeIsTheCommand (.debug 0 0 0x4800 0x4800) rfl,
    decodeOfEncodeIsTheCommand (.decodexy 0 1 1 1) rfl,
    decodeOfEncodeIsTheCommand (.place 3 0x0302 1 0 0) rfl,
    decodeOfEncodeIsTheCommand (.wrGfx 0 8 0x00FF0000) rfl,
    decodeOfEncodeIsTheCommand (.wrPal 0 0x27 0xFF11D827) rfl,
    decodeOfEncodeIsTheCommand (.wrRes 0 224 256) rfl⟩

end Sys2Proof.Machine
